-- ==== Sys2Proof/Word.lean ====
section
/-!
DEFINITION. The widths of the cure-8 CORE (R4, R6): every value is an unsigned integer of 4, 8, 12 or 16 bits. There is no signed
quantity anywhere, so the only widening is zero-extension.
-/

namespace Sys2Proof

/-- A 4-bit field: `opcode`, `x`, `y`, `n`, and a register index (R71, R74). -/
abbrev Nibble := BitVec 4

/-- An 8-bit register, memory byte or immediate `kk` (R4, R75). -/
abbrev Byte := BitVec 8

/-- The 12-bit address operand `nnn` (R71, R75). -/
abbrev Addr12 := BitVec 12

/-- A 16-bit instruction word, `pc`, `index` or stack slot (R4). -/
abbrev Word := BitVec 16

end Sys2Proof
end

