-- ==== Sys2Proof/Syntax.lean ====
section
/-!
DEFINITION. The instructions: one constructor per row of `spec/opcode_table.json` (R76, R79), with the operands the row names.
Ignored bits (R77, R78) are no operands. A row of format RESERVED carries the whole raw word, since its only effect names it (R112).
-/

namespace Sys2Proof

/-- The 27 instructions of R76 and the 19 unrecognised sub-opcodes of R79. -/
inductive Instr where
  /-- return, `0---` (R120). -/
  | ret
  /-- jump, `1nnn` (R121). -/
  | jump (nnn : Addr12)
  /-- call, `2nnn` (R122). -/
  | call (nnn : Addr12)
  /-- skip-eq-imm, `3xkk` (R130). -/
  | skipEqImm (x : Nibble) (kk : Byte)
  /-- skip-neq-imm, `4xkk` (R131). -/
  | skipNeqImm (x : Nibble) (kk : Byte)
  /-- skip-eq-reg, `5xy-` (R132). -/
  | skipEqReg (x y : Nibble)
  /-- load-imm, `6xkk` (R140). -/
  | loadImm (x : Nibble) (kk : Byte)
  /-- add-imm, `7xkk` (R141). -/
  | addImm (x : Nibble) (kk : Byte)
  /-- move, `8xy0` (R142). -/
  | move (x y : Nibble)
  /-- or, `8xy1` (R143). -/
  | orReg (x y : Nibble)
  /-- and, `8xy2` (R144). -/
  | andReg (x y : Nibble)
  /-- xor, `8xy3` (R145). -/
  | xorReg (x y : Nibble)
  /-- add-reg, `8xy4` (R146). -/
  | addReg (x y : Nibble)
  /-- sub-reg, `8xy5` (R147). -/
  | subReg (x y : Nibble)
  /-- shift-right, `8x-6` (R148). -/
  | shiftRight (x : Nibble)
  /-- subn-reg, `8xy7` (R149). -/
  | subnReg (x y : Nibble)
  /-- The unrecognised words `8--8` (R112). -/
  | unrecognised88 (w : Word)
  /-- The unrecognised words `8--9` (R112). -/
  | unrecognised89 (w : Word)
  /-- The unrecognised words `8--A` (R112). -/
  | unrecognised8A (w : Word)
  /-- The unrecognised words `8--B` (R112). -/
  | unrecognised8B (w : Word)
  /-- The unrecognised words `8--C` (R112). -/
  | unrecognised8C (w : Word)
  /-- The unrecognised words `8--D` (R112). -/
  | unrecognised8D (w : Word)
  /-- shift-left, `8x-E` (R150). -/
  | shiftLeft (x : Nibble)
  /-- The unrecognised words `8--F` (R112). -/
  | unrecognised8F (w : Word)
  /-- skip-neq-reg, `9xy-` (R133). -/
  | skipNeqReg (x y : Nibble)
  /-- load-index, `Annn` (R160). -/
  | loadIndex (nnn : Addr12)
  /-- jump-offset, `Bnnn` (R123). -/
  | jumpOffset (nnn : Addr12)
  /-- add-index, `Cx--` (R161). -/
  | addIndex (x : Nibble)
  /-- bcd, `Dx--` (R162). -/
  | bcd (x : Nibble)
  /-- store-block, `Ex--` (R163). -/
  | storeBlock (x : Nibble)
  /-- load-block, `Fx-0` (R164). -/
  | loadBlock (x : Nibble)
  /-- print-regs, `Fx-1` (R170). -/
  | printRegs (x : Nibble)
  /-- print-mem, `Fx-2` (R171). -/
  | printMem (x : Nibble)
  /-- The unrecognised words `F--3` (R112). -/
  | unrecognisedF3 (w : Word)
  /-- The unrecognised words `F--4` (R112). -/
  | unrecognisedF4 (w : Word)
  /-- The unrecognised words `F--5` (R112). -/
  | unrecognisedF5 (w : Word)
  /-- The unrecognised words `F--6` (R112). -/
  | unrecognisedF6 (w : Word)
  /-- The unrecognised words `F--7` (R112). -/
  | unrecognisedF7 (w : Word)
  /-- The unrecognised words `F--8` (R112). -/
  | unrecognisedF8 (w : Word)
  /-- The unrecognised words `F--9` (R112). -/
  | unrecognisedF9 (w : Word)
  /-- The unrecognised words `F--A` (R112). -/
  | unrecognisedFA (w : Word)
  /-- The unrecognised words `F--B` (R112). -/
  | unrecognisedFB (w : Word)
  /-- The unrecognised words `F--C` (R112). -/
  | unrecognisedFC (w : Word)
  /-- The unrecognised words `F--D` (R112). -/
  | unrecognisedFD (w : Word)
  /-- The unrecognised words `F--E` (R112). -/
  | unrecognisedFE (w : Word)
  /-- halt, `F--F` (R172). -/
  | halt
deriving DecidableEq, Repr

end Sys2Proof
end

