-- ==== Sys2Proof/WellFormed.lean ====
section
/-!
DEFINITION. Which terms of `Instr` are instructions. A register index, `kk` or `nnn` of its width is always admitted ("no register
field can be invalid", R74; R75), so the operand types say it all for the 27 instructions of R76. A term for an unrecognised
sub-opcode carries a raw word, and is well formed when that word is one the row matches: mask 0xF00F (R79).
-/

namespace Sys2Proof

/-- `w` is a word with `opcode` and `n` as in `pat`: `(w & 0xF00F) = pat` (R76, R79). -/
def subOpcodeIs (pat w : Word) : Bool := (w &&& 0xF00F#16) == pat

/-- The well-formed instructions. -/
def Instr.wellFormed : Instr → Bool
  | .ret => true
  | .jump _ => true
  | .call _ => true
  | .skipEqImm _ _ => true
  | .skipNeqImm _ _ => true
  | .skipEqReg _ _ => true
  | .loadImm _ _ => true
  | .addImm _ _ => true
  | .move _ _ => true
  | .orReg _ _ => true
  | .andReg _ _ => true
  | .xorReg _ _ => true
  | .addReg _ _ => true
  | .subReg _ _ => true
  | .shiftRight _ => true
  | .subnReg _ _ => true
  | .unrecognised88 w => subOpcodeIs 0x8008#16 w
  | .unrecognised89 w => subOpcodeIs 0x8009#16 w
  | .unrecognised8A w => subOpcodeIs 0x800A#16 w
  | .unrecognised8B w => subOpcodeIs 0x800B#16 w
  | .unrecognised8C w => subOpcodeIs 0x800C#16 w
  | .unrecognised8D w => subOpcodeIs 0x800D#16 w
  | .shiftLeft _ => true
  | .unrecognised8F w => subOpcodeIs 0x800F#16 w
  | .skipNeqReg _ _ => true
  | .loadIndex _ => true
  | .jumpOffset _ => true
  | .addIndex _ => true
  | .bcd _ => true
  | .storeBlock _ => true
  | .loadBlock _ => true
  | .printRegs _ => true
  | .printMem _ => true
  | .unrecognisedF3 w => subOpcodeIs 0xF003#16 w
  | .unrecognisedF4 w => subOpcodeIs 0xF004#16 w
  | .unrecognisedF5 w => subOpcodeIs 0xF005#16 w
  | .unrecognisedF6 w => subOpcodeIs 0xF006#16 w
  | .unrecognisedF7 w => subOpcodeIs 0xF007#16 w
  | .unrecognisedF8 w => subOpcodeIs 0xF008#16 w
  | .unrecognisedF9 w => subOpcodeIs 0xF009#16 w
  | .unrecognisedFA w => subOpcodeIs 0xF00A#16 w
  | .unrecognisedFB w => subOpcodeIs 0xF00B#16 w
  | .unrecognisedFC w => subOpcodeIs 0xF00C#16 w
  | .unrecognisedFD w => subOpcodeIs 0xF00D#16 w
  | .unrecognisedFE w => subOpcodeIs 0xF00E#16 w
  | .halt => true

end Sys2Proof
end

