-- ==== Sys2Proof/Decode.lean ====
section
/-!
DEFINITION. The instruction decoder block (R90 to R100), the choice of the instruction (R109 to R111), and the encoder (R12, R83).
-/

namespace Sys2Proof

/-! ### Construction, field views and serialisation -/

/-- `FromWord(w)`: an Instruction is nothing more than the 16-bit word itself (R90, R93). -/
def fromWord (w : Word) : Word := w

/-- `FromBytes(b0, b1)`: big-endian, `b0` the byte at the lower address (R94). -/
def fromBytes (b0 b1 : Byte) : Word := b0 ++ b1

/-- `opcode(w) = w[15:12]` (R95). -/
def fieldOpcode (w : Word) : Nibble := w.extractLsb' 12 4

/-- `x(w) = w[11:8]` (R97). -/
def fieldX (w : Word) : Nibble := w.extractLsb' 8 4

/-- `y(w) = w[7:4]` (R97). -/
def fieldY (w : Word) : Nibble := w.extractLsb' 4 4

/-- `n(w) = w[3:0]` (R99). -/
def fieldN (w : Word) : Nibble := w.extractLsb' 0 4

/-- `kk(w) = w[7:0]` (R98). -/
def fieldKK (w : Word) : Byte := w.extractLsb' 0 8

/-- `nnn(w) = w[11:0]` (R96). -/
def fieldNNN (w : Word) : Addr12 := w.extractLsb' 0 12

/-- `ToBytes(w) = (w[15:8], w[7:0])` (R100). -/
def toBytes (w : Word) : Byte × Byte := (w.extractLsb' 8 8, w.extractLsb' 0 8)

/-! ### Choosing the instruction -/

/-- Secondary dispatch of family 0x8 on `n` (R110). The last arm is `n` = 0xF, the one value left. -/
def decodeFamily8 (w : Word) : Instr :=
  match fieldN w with
  | 0x0#4 => .move (fieldX w) (fieldY w)
  | 0x1#4 => .orReg (fieldX w) (fieldY w)
  | 0x2#4 => .andReg (fieldX w) (fieldY w)
  | 0x3#4 => .xorReg (fieldX w) (fieldY w)
  | 0x4#4 => .addReg (fieldX w) (fieldY w)
  | 0x5#4 => .subReg (fieldX w) (fieldY w)
  | 0x6#4 => .shiftRight (fieldX w)
  | 0x7#4 => .subnReg (fieldX w) (fieldY w)
  | 0x8#4 => .unrecognised88 w
  | 0x9#4 => .unrecognised89 w
  | 0xA#4 => .unrecognised8A w
  | 0xB#4 => .unrecognised8B w
  | 0xC#4 => .unrecognised8C w
  | 0xD#4 => .unrecognised8D w
  | 0xE#4 => .shiftLeft (fieldX w)
  | _     => .unrecognised8F w

/-- Secondary dispatch of family 0xF on `n` (R111). The last arm is `n` = 0xF, the one value left: halt, whatever `x` and `y`
are (R78; UNVERIFIED against the original, entry 5). -/
def decodeFamilyF (w : Word) : Instr :=
  match fieldN w with
  | 0x0#4 => .loadBlock (fieldX w)
  | 0x1#4 => .printRegs (fieldX w)
  | 0x2#4 => .printMem (fieldX w)
  | 0x3#4 => .unrecognisedF3 w
  | 0x4#4 => .unrecognisedF4 w
  | 0x5#4 => .unrecognisedF5 w
  | 0x6#4 => .unrecognisedF6 w
  | 0x7#4 => .unrecognisedF7 w
  | 0x8#4 => .unrecognisedF8 w
  | 0x9#4 => .unrecognisedF9 w
  | 0xA#4 => .unrecognisedFA w
  | 0xB#4 => .unrecognisedFB w
  | 0xC#4 => .unrecognisedFC w
  | 0xD#4 => .unrecognisedFD w
  | 0xE#4 => .unrecognisedFE w
  | _     => .halt

/-- Primary dispatch on `opcode` (R109). It is total: every word selects one handler or the unrecognised arm (R80, R91). The last
arm is `opcode` = 0xF, the one value left. No other field takes part outside families 0x8 and 0xF (R77; UNVERIFIED against the
original, entry 4). -/
def decodeWord (w : Word) : Instr :=
  match fieldOpcode w with
  | 0x0#4 => .ret
  | 0x1#4 => .jump (fieldNNN w)
  | 0x2#4 => .call (fieldNNN w)
  | 0x3#4 => .skipEqImm (fieldX w) (fieldKK w)
  | 0x4#4 => .skipNeqImm (fieldX w) (fieldKK w)
  | 0x5#4 => .skipEqReg (fieldX w) (fieldY w)
  | 0x6#4 => .loadImm (fieldX w) (fieldKK w)
  | 0x7#4 => .addImm (fieldX w) (fieldKK w)
  | 0x8#4 => decodeFamily8 w
  | 0x9#4 => .skipNeqReg (fieldX w) (fieldY w)
  | 0xA#4 => .loadIndex (fieldNNN w)
  | 0xB#4 => .jumpOffset (fieldNNN w)
  | 0xC#4 => .addIndex (fieldX w)
  | 0xD#4 => .bcd (fieldX w)
  | 0xE#4 => .storeBlock (fieldX w)
  | _     => decodeFamilyF w

/-- Why a list of bytes is no instruction: an instruction is exactly two bytes (R70). No word is refused (R91). -/
inductive DecodeError where
  | fewerThanTwoBytes
deriving DecidableEq, Repr

/-- The instruction in the first two bytes, and the bytes after it (R52, R70, R94). -/
def decode : List Byte → Except DecodeError (Instr × List Byte)
  | b0 :: b1 :: rest => .ok (decodeWord (fromBytes b0 b1), rest)
  | _ => .error .fewerThanTwoBytes

/-! ### The encoder -/

/-- Format `NNN` (R73). -/
def encodeNNN (op : Nibble) (nnn : Addr12) : Word := op ++ nnn

/-- Format `XKK` (R73). -/
def encodeXKK (op x : Nibble) (kk : Byte) : Word := op ++ x ++ kk

/-- Formats `XY`, `XYN`, `X` and `XN`: the four nibbles (R71, R73). -/
def encodeXYN (op x y n : Nibble) : Word := op ++ x ++ y ++ n

/-- The canonical encoding (R12, R83): every ignored bit 0, halt 0xFFFF. An unrecognised word is itself (R112). -/
def encode : Instr → Word
  | .ret => 0x0000#16
  | .jump nnn => encodeNNN 0x1 nnn
  | .call nnn => encodeNNN 0x2 nnn
  | .skipEqImm x kk => encodeXKK 0x3 x kk
  | .skipNeqImm x kk => encodeXKK 0x4 x kk
  | .skipEqReg x y => encodeXYN 0x5 x y 0x0
  | .loadImm x kk => encodeXKK 0x6 x kk
  | .addImm x kk => encodeXKK 0x7 x kk
  | .move x y => encodeXYN 0x8 x y 0x0
  | .orReg x y => encodeXYN 0x8 x y 0x1
  | .andReg x y => encodeXYN 0x8 x y 0x2
  | .xorReg x y => encodeXYN 0x8 x y 0x3
  | .addReg x y => encodeXYN 0x8 x y 0x4
  | .subReg x y => encodeXYN 0x8 x y 0x5
  | .shiftRight x => encodeXYN 0x8 x 0x0 0x6
  | .subnReg x y => encodeXYN 0x8 x y 0x7
  | .unrecognised88 w => w
  | .unrecognised89 w => w
  | .unrecognised8A w => w
  | .unrecognised8B w => w
  | .unrecognised8C w => w
  | .unrecognised8D w => w
  | .shiftLeft x => encodeXYN 0x8 x 0x0 0xE
  | .unrecognised8F w => w
  | .skipNeqReg x y => encodeXYN 0x9 x y 0x0
  | .loadIndex nnn => encodeNNN 0xA nnn
  | .jumpOffset nnn => encodeNNN 0xB nnn
  | .addIndex x => encodeXYN 0xC x 0x0 0x0
  | .bcd x => encodeXYN 0xD x 0x0 0x0
  | .storeBlock x => encodeXYN 0xE x 0x0 0x0
  | .loadBlock x => encodeXYN 0xF x 0x0 0x0
  | .printRegs x => encodeXYN 0xF x 0x0 0x1
  | .printMem x => encodeXYN 0xF x 0x0 0x2
  | .unrecognisedF3 w => w
  | .unrecognisedF4 w => w
  | .unrecognisedF5 w => w
  | .unrecognisedF6 w => w
  | .unrecognisedF7 w => w
  | .unrecognisedF8 w => w
  | .unrecognisedF9 w => w
  | .unrecognisedFA w => w
  | .unrecognisedFB w => w
  | .unrecognisedFC w => w
  | .unrecognisedFD w => w
  | .unrecognisedFE w => w
  | .halt => 0xFFFF#16

/-- The canonical encoding as bytes in memory order (R72, R100). -/
def encodeBytes (i : Instr) : List Byte := [(toBytes (encode i)).1, (toBytes (encode i)).2]

/-! ### The opcode table -/

/-- A row of the opcode table: `w` is of the row exactly when `(w & mask) = pat` (R76). -/
structure OpcodeRow where
  pat : Word
  mask : Word
deriving DecidableEq, Repr

/-- The row takes `w` in. -/
def OpcodeRow.takes (r : OpcodeRow) (w : Word) : Bool := (w &&& r.mask) == r.pat

/-- The row of each instruction: the match and mask columns of R76, and of R79 for the unrecognised sub-opcodes. -/
def Instr.row : Instr → OpcodeRow
  | .ret => ⟨0x0000#16, 0xF000#16⟩
  | .jump _ => ⟨0x1000#16, 0xF000#16⟩
  | .call _ => ⟨0x2000#16, 0xF000#16⟩
  | .skipEqImm _ _ => ⟨0x3000#16, 0xF000#16⟩
  | .skipNeqImm _ _ => ⟨0x4000#16, 0xF000#16⟩
  | .skipEqReg _ _ => ⟨0x5000#16, 0xF000#16⟩
  | .loadImm _ _ => ⟨0x6000#16, 0xF000#16⟩
  | .addImm _ _ => ⟨0x7000#16, 0xF000#16⟩
  | .move _ _ => ⟨0x8000#16, 0xF00F#16⟩
  | .orReg _ _ => ⟨0x8001#16, 0xF00F#16⟩
  | .andReg _ _ => ⟨0x8002#16, 0xF00F#16⟩
  | .xorReg _ _ => ⟨0x8003#16, 0xF00F#16⟩
  | .addReg _ _ => ⟨0x8004#16, 0xF00F#16⟩
  | .subReg _ _ => ⟨0x8005#16, 0xF00F#16⟩
  | .shiftRight _ => ⟨0x8006#16, 0xF00F#16⟩
  | .subnReg _ _ => ⟨0x8007#16, 0xF00F#16⟩
  | .unrecognised88 _ => ⟨0x8008#16, 0xF00F#16⟩
  | .unrecognised89 _ => ⟨0x8009#16, 0xF00F#16⟩
  | .unrecognised8A _ => ⟨0x800A#16, 0xF00F#16⟩
  | .unrecognised8B _ => ⟨0x800B#16, 0xF00F#16⟩
  | .unrecognised8C _ => ⟨0x800C#16, 0xF00F#16⟩
  | .unrecognised8D _ => ⟨0x800D#16, 0xF00F#16⟩
  | .shiftLeft _ => ⟨0x800E#16, 0xF00F#16⟩
  | .unrecognised8F _ => ⟨0x800F#16, 0xF00F#16⟩
  | .skipNeqReg _ _ => ⟨0x9000#16, 0xF000#16⟩
  | .loadIndex _ => ⟨0xA000#16, 0xF000#16⟩
  | .jumpOffset _ => ⟨0xB000#16, 0xF000#16⟩
  | .addIndex _ => ⟨0xC000#16, 0xF000#16⟩
  | .bcd _ => ⟨0xD000#16, 0xF000#16⟩
  | .storeBlock _ => ⟨0xE000#16, 0xF000#16⟩
  | .loadBlock _ => ⟨0xF000#16, 0xF00F#16⟩
  | .printRegs _ => ⟨0xF001#16, 0xF00F#16⟩
  | .printMem _ => ⟨0xF002#16, 0xF00F#16⟩
  | .unrecognisedF3 _ => ⟨0xF003#16, 0xF00F#16⟩
  | .unrecognisedF4 _ => ⟨0xF004#16, 0xF00F#16⟩
  | .unrecognisedF5 _ => ⟨0xF005#16, 0xF00F#16⟩
  | .unrecognisedF6 _ => ⟨0xF006#16, 0xF00F#16⟩
  | .unrecognisedF7 _ => ⟨0xF007#16, 0xF00F#16⟩
  | .unrecognisedF8 _ => ⟨0xF008#16, 0xF00F#16⟩
  | .unrecognisedF9 _ => ⟨0xF009#16, 0xF00F#16⟩
  | .unrecognisedFA _ => ⟨0xF00A#16, 0xF00F#16⟩
  | .unrecognisedFB _ => ⟨0xF00B#16, 0xF00F#16⟩
  | .unrecognisedFC _ => ⟨0xF00C#16, 0xF00F#16⟩
  | .unrecognisedFD _ => ⟨0xF00D#16, 0xF00F#16⟩
  | .unrecognisedFE _ => ⟨0xF00E#16, 0xF00F#16⟩
  | .halt => ⟨0xF00F#16, 0xF00F#16⟩

/-- The 46 rows, in the table's order: 27 instructions (R76) and 19 unrecognised sub-opcodes (R79). -/
def opcodeTable : List OpcodeRow :=
  [⟨0x0000#16, 0xF000#16⟩, ⟨0x1000#16, 0xF000#16⟩, ⟨0x2000#16, 0xF000#16⟩, ⟨0x3000#16, 0xF000#16⟩, ⟨0x4000#16, 0xF000#16⟩, ⟨0x5000#16, 0xF000#16⟩] ++
  [⟨0x6000#16, 0xF000#16⟩, ⟨0x7000#16, 0xF000#16⟩, ⟨0x8000#16, 0xF00F#16⟩, ⟨0x8001#16, 0xF00F#16⟩, ⟨0x8002#16, 0xF00F#16⟩, ⟨0x8003#16, 0xF00F#16⟩] ++
  [⟨0x8004#16, 0xF00F#16⟩, ⟨0x8005#16, 0xF00F#16⟩, ⟨0x8006#16, 0xF00F#16⟩, ⟨0x8007#16, 0xF00F#16⟩, ⟨0x8008#16, 0xF00F#16⟩, ⟨0x8009#16, 0xF00F#16⟩] ++
  [⟨0x800A#16, 0xF00F#16⟩, ⟨0x800B#16, 0xF00F#16⟩, ⟨0x800C#16, 0xF00F#16⟩, ⟨0x800D#16, 0xF00F#16⟩, ⟨0x800E#16, 0xF00F#16⟩, ⟨0x800F#16, 0xF00F#16⟩] ++
  [⟨0x9000#16, 0xF000#16⟩, ⟨0xA000#16, 0xF000#16⟩, ⟨0xB000#16, 0xF000#16⟩, ⟨0xC000#16, 0xF000#16⟩, ⟨0xD000#16, 0xF000#16⟩, ⟨0xE000#16, 0xF000#16⟩] ++
  [⟨0xF000#16, 0xF00F#16⟩, ⟨0xF001#16, 0xF00F#16⟩, ⟨0xF002#16, 0xF00F#16⟩, ⟨0xF003#16, 0xF00F#16⟩, ⟨0xF004#16, 0xF00F#16⟩, ⟨0xF005#16, 0xF00F#16⟩] ++
  [⟨0xF006#16, 0xF00F#16⟩, ⟨0xF007#16, 0xF00F#16⟩, ⟨0xF008#16, 0xF00F#16⟩, ⟨0xF009#16, 0xF00F#16⟩, ⟨0xF00A#16, 0xF00F#16⟩, ⟨0xF00B#16, 0xF00F#16⟩] ++
  [⟨0xF00C#16, 0xF00F#16⟩, ⟨0xF00D#16, 0xF00F#16⟩, ⟨0xF00E#16, 0xF00F#16⟩, ⟨0xF00F#16, 0xF00F#16⟩]

/-! ### The host's reading of a table word -/

/-- The bytes, in memory order, of the instruction whose low `nbits` bits are those of `w` and whose other bits are 0. The table's
word is the 16-bit instruction word (R71), stored most significant byte first (R52). DESIGN CHOICE (entry 16): bits of `w` at or above
`nbits` or 16 are dropped. -/
def tableBytes (nbits w : Nat) : List Byte :=
  let word : Word := BitVec.ofNat 16 (w % 2 ^ nbits)
  [(toBytes word).1, (toBytes word).2]

/-- The instruction the decoder reads from a word of the opcode table. -/
def decodeTableWord (nbits w : Nat) : Option Instr :=
  match decode (tableBytes nbits w) with
  | .ok (i, _) => some i
  | .error _ => none

end Sys2Proof
end

