-- ==== Sys2Proof/Machine/Event.lean ====
section
/-!
DEFINITION. The run status, the fatal causes and the output events, as the spec names them: R32, R34, R180. Plain data.
-/

namespace Sys2Proof.Machine

/-- The five causes `c` of `Faulted(c)` (R32, R180). -/
inductive FaultCause where
  /-- R181: the fetch stage finds `pc >= 4095`. -/
  | fetchOutOfBounds
  /-- R182: a call with `sp = 15`. -/
  | stackOverflow
  /-- R183: a return with `sp = 0`. -/
  | stackUnderflow
  /-- R184: bcd, store-block, load-block or print-mem reaching above address 4095. -/
  | memoryOutOfBounds
  /-- R185: an add-index whose sum exceeds 65535. -/
  | indexOverflow
deriving DecidableEq, Repr

/-- The run status (R32): `Running`, `Halted(exit status)`, `Faulted(cause)`. -/
inductive RunStatus where
  | running
  | halted (exitStatus : Nat)
  | faulted (c : FaultCause)
deriving DecidableEq, Repr

/-- What the engine hands to the output sink: typed events carrying values, no text (R34, D14). -/
inductive Event where
  /-- The word just fetched (R108). -/
  | trace (w : Word)
  /-- The bytes of print-regs (R170). -/
  | printRegs (bs : List Byte)
  /-- The bytes of print-mem (R171). -/
  | printMem (bs : List Byte)
  /-- The raw unrecognised word (R112). -/
  | diagnostic (w : Word)
  /-- The termination notice of halt (R172). -/
  | haltNotice
deriving DecidableEq, Repr

/-- A fatal condition as the pseudocode's `raise C(info)` names it (R9), with the recorded value of R180. -/
inductive Raise where
  /-- `FetchOutOfBounds(pc)`: the `pc` that could not be fetched. -/
  | fetchOutOfBounds (pc : Nat)
  | stackOverflow
  | stackUnderflow
  /-- `MemoryOutOfBounds(a)`: the lowest offending address (R57). -/
  | memoryOutOfBounds (a : Nat)
  | indexOverflow
deriving DecidableEq, Repr

/-- The cause of a raise. The recorded value is dropped: "the only thing the machine keeps is `status = Faulted(cause)`" (R180). -/
def Raise.cause : Raise → FaultCause
  | .fetchOutOfBounds _ => .fetchOutOfBounds
  | .stackOverflow => .stackOverflow
  | .stackUnderflow => .stackUnderflow
  | .memoryOutOfBounds _ => .memoryOutOfBounds
  | .indexOverflow => .indexOverflow

/-- The code of R180 for each fatal cause. Code 0 is the non-fatal `UnrecognisedWord`, which never reaches `status` (R186). -/
def FaultCause.code : FaultCause → Nat
  | .fetchOutOfBounds => 1
  | .stackOverflow => 2
  | .stackUnderflow => 3
  | .memoryOutOfBounds => 4
  | .indexOverflow => 5

end Sys2Proof.Machine
end

