-- ==== Sys2Proof/Config.lean ====
section
/-!
DEFINITION. The implementation parameters of R4. All but two are fixed by the spec and are constants here. The two marked OPEN
there, `FAULT_EXIT_STATUS` (D13) and `SINK_FORMAT` (D14), belong to the host and are the fields of `HostParams`: definitions that
depend on them take a `HostParams` as an argument, so a statement about one holds for every choice (entry 10). The engine's step
depends on neither.
-/

namespace Sys2Proof.Config

/-- `MEM_SIZE`: addresses 0 to 4095. -/
def memSize : Nat := 4096

/-- `PROG_BASE`: load address of the image and reset value of `pc`. -/
def progBase : Nat := 512

/-- `MAX_IMAGE` = 4096 - 512. -/
def maxImage : Nat := 3584

/-- `FLAG_REG`: the register written as flag. -/
def flagReg : Nibble := 15#4

/-- `HALT_EXIT_STATUS`. -/
def haltExitStatus : Nat := 1

/-- The two OPEN parameters of R4. `faultExitStatus` is constrained only in that the host can tell each fatal cause from every
other and from a halt (D13); `sinkFormat` not at all (D14). -/
structure HostParams where
  faultExitStatus : Machine.FaultCause → Nat
  distinct : ∀ c d, faultExitStatus c = faultExitStatus d → c = d
  notHalt : ∀ c, faultExitStatus c ≠ haltExitStatus
  sinkFormat : Machine.Event → String

end Sys2Proof.Config
end

