-- ==== Sys2Proof/Machine/State.lean ====
section
/-!
DEFINITION. The machine's state, as plain data, and its value after reset: the six fields of the source's data model with `status`
and `out` (R20 to R36). There is no other state (R30, R33, R35).
-/

namespace Sys2Proof.Machine

/-- The 4096 bytes of memory (R31), as the list of (address, byte) pairs that differ from the reset value 0, addresses strictly
rising. `Memory.read` and `Memory.write` (Machine/Ops.lean) are the only access. -/
abbrev Memory := List Host.Cell

structure State where
  /-- `reg[0]` to `reg[15]`; `reg[15]` is the flag `F` (R20, R23). -/
  regs : Vector Byte 16
  /-- The index register (R27). -/
  index : Word
  /-- The program counter: between cycles the address of the next instruction, during execution that address + 2 (R24). -/
  pc : Word
  /-- The stack pointer: the slot of the most recent return address, 0 when the stack is empty (R28). -/
  sp : Byte
  /-- The return stack, apart from memory (R29). -/
  stack : Vector Word 16
  /-- The one address space (R31). -/
  mem : Memory
  /-- The run status (R32). -/
  status : RunStatus
  /-- The events emitted so far, oldest first (R34). -/
  out : List Event
deriving DecidableEq, Repr

/-- Why `step` or a meaning stops with a fault. A fatal condition of the spec is no `Fault` when it happens: it is the next state with
`status = Faulted(cause)` (R187, entry 3). -/
inductive Fault where
  /-- `step` from a state whose `status` is `Halted(e)`: "in `Halted(1)` or `Faulted(c)` there is no step" (R105). Raised by `step`
  only. Safe: nothing is claimed to happen (entry 2). -/
  | engineHalted (exitStatus : Nat)
  /-- `step` from a state whose `status` is `Faulted(c)` (R105, R187). Raised by `step` only. Safe (entry 2). -/
  | engineFaulted (c : FaultCause)
  /-- return with `sp` above 15, or call with `sp + 1` above 15 and `sp` not 15: `stack` has no such slot (R29). Raised by return and
  call; no state reachable from reset has such an `sp` (R28, R38). Safe (entry 8). -/
  | noStackSlot (slot : Nat)
deriving DecidableEq, Repr

/-- Why an instruction is refused. -/
inductive Refusal where
  /-- No meaning yet. No arm of `exec` answers this: every row of the table has its meaning. Safe. -/
  | notModelled (mnemonic : String)
deriving DecidableEq, Repr

/-- What a meaning answers. -/
abbrev Result := Host.Outcome State Fault Refusal

/-- The state after reset: "all state zero-initialized except `pc`" (R36, R210, R211). -/
def State.reset : State where
  regs := Vector.replicate 16 0#8
  index := 0#16
  pc := BitVec.ofNat 16 Config.progBase
  sp := 0#8
  stack := Vector.replicate 16 0#16
  mem := []
  status := .running
  out := []

end Sys2Proof.Machine
end

