-- ==== Sys2Proof/Machine/Operands.lean ====
section
/-!
DEFINITION. The operand forms (R73 to R75): a register named by a 4-bit field, an immediate or address widened by zeros, the inclusive
range `0..=x`, and the one data addressing mode, `index` plus a small constant (`45_index_memory.md`, Addressing).
-/

namespace Sys2Proof.Machine

/-- A read of `reg[i]` (R7). Every `i` names a register; none is hardwired (R20). -/
def State.reg (s : State) (i : Nibble) : Byte := s.regs[i.toNat]

/-- `reg[i] <- v` (R7). -/
def State.setReg (s : State) (i : Nibble) (v : Byte) : State := { s with regs := s.regs.set i.toNat v }

/-- `zext_16` of an address operand (R6, R75). -/
def zext12 (a : Addr12) : Word := a.setWidth 16

/-- `zext_16` of a register value (R6). -/
def zext8 (b : Byte) : Word := b.setWidth 16

/-- `0..=x`: the indices 0 to `x`, ascending, `x + 1` of them (R163). -/
def upTo (x : Nibble) : List Nibble := (List.range (x.toNat + 1)).map (BitVec.ofNat 4)

/-- The effective address `index + i`: an integer, not reduced modulo anything (R8, R51). -/
def State.effAddr (s : State) (i : Nat) : Nat := s.index.toNat + i

/-- The target of jump-offset, `zext_16(nnn) + zext_16(reg[0])`: at most 4350, no wrap (R123). -/
def State.offsetTarget (s : State) (nnn : Addr12) : Word := zext12 nnn + zext8 (s.reg 0#4)

/-- The hundreds, tens and ones of `v`, each as one byte (R162). -/
def bcdDigits (v : Byte) : Byte × Byte × Byte :=
  (BitVec.ofNat 8 (v.toNat / 100), BitVec.ofNat 8 (v.toNat / 10 % 10), BitVec.ofNat 8 (v.toNat % 10))

end Sys2Proof.Machine
end

