-- ==== Sys2Proof/Machine/Flags.lean ====
section
/-!
DEFINITION. The five flag values of R23 and R152, from the operands before the instruction, and the two orders in which an instruction
writes its result and `F` (R10, D5; UNVERIFIED against the original where `x` = 15, entry 6). The conventions are the source's own
(UNVERIFIED by any reference vector, U16, entry 13).
-/

namespace Sys2Proof.Machine

/-- add-reg: 1 if `a + b >= 256`, else 0 (R146). -/
def carryOut (a b : Byte) : Byte := if 256 ≤ a.toNat + b.toNat then 1#8 else 0#8

/-- sub-reg and subn-reg, minuend `a`, subtrahend `b`: 1 (no borrow) if `a >= b`, else 0 (R147, R149). -/
def noBorrow (a b : Byte) : Byte := if b.toNat ≤ a.toNat then 1#8 else 0#8

/-- shift-right: the bit shifted out, bit 0 (R148). -/
def lowBitOut (a : Byte) : Byte := a &&& 1#8

/-- shift-left: the bit shifted out, bit 7 (R150). -/
def highBitOut (a : Byte) : Byte := a >>> 7

/-- `F <- v` (R23). -/
def State.setFlag (s : State) (v : Byte) : State := s.setReg Config.flagReg v

/-- `reg[x] <- r`, then `F <- f`: with `x` = 15 the flag survives (R146, R147, R149). -/
def State.setRegThenFlag (s : State) (x : Nibble) (r f : Byte) : State := (s.setReg x r).setFlag f

/-- `F <- f`, then `reg[x] <- shift reg[x]`, the shift reading `reg[x]` after the flag is written (R148, R150). -/
def State.setFlagThenShift (s : State) (x : Nibble) (f : Byte) (shift : Byte → Byte) : State :=
  (s.setFlag f).setReg x (shift ((s.setFlag f).reg x))

end Sys2Proof.Machine
end

