-- ==== Sys2Proof/Machine/Ops.lean ====
section
/-!
DEFINITION. The named operations over memory, the return stack and the output stream, the fetch, and taking a fatal condition.
-/

namespace Sys2Proof.Machine

/-! ### Memory as data -/

/-- What a byte of memory holds after reset, and so what an address the list does not name reads as (R31, R36; entry 9). -/
def resetByte : Byte := 0#8

/-- The byte at address `a`. -/
def Memory.read : Memory → Nat → Byte
  | [], _ => resetByte
  | (b, u) :: m, a => if b = a then u else Memory.read m a

/-- Put an entry in its place by address. -/
def Memory.insert (a : Nat) (v : Byte) : Memory → Memory
  | [] => [(a, v)]
  | c :: m => if a < c.1 then (a, v) :: c :: m else c :: Memory.insert a v m

/-- Take out what is listed at `a`. -/
def Memory.erase (m : Memory) (a : Nat) : Memory := m.filter fun c => c.1 != a

/-- The byte at `a` becomes `v`. Writing the reset value leaves `a` unlisted, so that equal memories are equal lists. -/
def Memory.write (m : Memory) (a : Nat) (v : Byte) : Memory :=
  if v = resetByte then m.erase a else (m.erase a).insert a v

/-- The canonical form: addresses strictly rising, each in 0 to 4095, and no entry equal to what an unlisted address reads as. -/
abbrev Memory.wf (m : Memory) : Prop :=
  m.Pairwise (fun c d => c.1 < d.1) ∧ ∀ c ∈ m, c.1 < Config.memSize ∧ c.2 ≠ resetByte

/-- The bytes of `bs` from address `a` upward (R214). -/
def Memory.writeBytes (m : Memory) : Nat → List Byte → Memory
  | _, [] => m
  | a, b :: bs => Memory.writeBytes (m.write a b) (a + 1) bs

/-! ### Output and the fatal conditions -/

/-- `emit e` (R7, R34). -/
def State.emit (s : State) (e : Event) : State := { s with out := s.out ++ [e] }

/-- `raise C(info)`: `status <- Faulted(C)` and nothing else (R9, R187). The recorded value is not kept (R180, entry 3). No event is
emitted for a fatal fault (R187). -/
def State.raise (s : State) (r : Raise) : State := { s with status := .faulted r.cause }

/-- The end of a handler that began in `s`: what it computed, or, if it raised, `s` with the cause in `status`, its other effects not
having happened (R113, R114, R187). -/
def settle (s : State) : Except Raise State → Result
  | .ok t => .next t
  | .error r => .next (s.raise r)

/-! ### Memory accesses of an instruction -/

/-- `MemRead(a, 1)` (R8, R55). -/
def State.memRead (s : State) (a : Nat) : Except Raise Byte :=
  if Config.memSize ≤ a then .error (.memoryOutOfBounds a) else .ok (s.mem.read a)

/-- `MemWrite(a, 1, v)` (R8, R55). -/
def State.memWrite (s : State) (a : Nat) (v : Byte) : Except Raise State :=
  if Config.memSize ≤ a then .error (.memoryOutOfBounds a) else .ok { s with mem := s.mem.write a v }

/-- The range check before any effect: if `index + k > 4095` raise with the lowest address of the range `index` to `index + k` that
exceeds 4095 (R57). -/
def State.checkRange (s : State) (k : Nat) : Except Raise Unit :=
  if Config.memSize ≤ s.effAddr k then .error (.memoryOutOfBounds (max s.index.toNat Config.memSize)) else .ok ()

/-- `for i in 0..=x: mem[index+i] = reg[i]` (R163). -/
def State.storeRegs (s : State) (x : Nibble) : Except Raise State :=
  (upTo x).foldlM (fun t i => t.memWrite (s.effAddr i.toNat) (s.reg i)) s

/-- `for i in 0..=x: reg[i] = mem[index+i]` (R164). -/
def State.loadRegs (s : State) (x : Nibble) : Except Raise State :=
  (upTo x).foldlM (fun t i => do return t.setReg i (← s.memRead (s.effAddr i.toNat))) s

/-- `mem[index..=index+x]`, lowest address first (R171). -/
def State.readBlock (s : State) (x : Nibble) : Except Raise (List Byte) :=
  (upTo x).mapM fun i => s.memRead (s.effAddr i.toNat)

/-- The three digit bytes, in ascending address order (R162). -/
def State.storeDigits (s : State) (v : Byte) : Except Raise State := do
  let s1 ← s.memWrite (s.effAddr 0) (bcdDigits v).1
  let s2 ← s1.memWrite (s.effAddr 1) (bcdDigits v).2.1
  s2.memWrite (s.effAddr 2) (bcdDigits v).2.2

/-! ### The return stack -/

/-- `stack[j]`, if there is such a slot (R7, R29). -/
def State.slot? (s : State) (j : Nat) : Option Word := s.stack[j]?

/-- `stack[j] <- v`, if there is such a slot. -/
def State.setSlot? (s : State) (j : Nat) (v : Word) : Option State :=
  if h : j < 16 then some { s with stack := s.stack.set j v h } else none

/-! ### Control -/

/-- `pc <- t`. -/
def State.setPc (s : State) (t : Word) : State := { s with pc := t }

/-- `index <- t`. -/
def State.setIndex (s : State) (t : Word) : State := { s with index := t }

/-- `pc <- pc + 2` if the condition holds (R130 to R133). DESIGN CHOICE (entry 7): modulo 65536, which no run reaches (R155, D26). -/
def State.skipIf (s : State) (c : Bool) : State := if c then s.setPc (s.pc + 2#16) else s

/-- The unrecognised word: `emit Diagnostic(w)` and nothing else (R112, R186). -/
def unrecognisedWord (w : Word) (s : State) : Result := .next (s.emit (.diagnostic w))

/-! ### The fetch -/

/-- `FetchWord(a)`: the bytes at `a` and `a + 1`, the first the more significant (R8, R52, R54). -/
def State.fetchWord (s : State) (a : Nat) : Except Raise Word :=
  if Config.memSize - 1 ≤ a then .error (.fetchOutOfBounds a) else .ok (fromBytes (s.mem.read a) (s.mem.read (a + 1)))

/-- The state the handler of `w` begins in: `pc` advanced by 2 and the word traced (R106, R108; UNVERIFIED that the original traces
unrecognised words and halt too, D15, entry 11). -/
def State.fetched (s : State) (w : Word) : State := (s.setPc (s.pc + 2#16)).emit (.trace w)

end Sys2Proof.Machine
end

