-- ==== Sys2Proof/Machine/Alu.lean ====
section
/-!
DEFINITION. Register and ALU instructions (R140 to R150). Bytes add and subtract modulo 256 (R151). They touch general registers only
and raise nothing.
-/

namespace Sys2Proof.Machine

/-- load-imm (R140): `reg[x] <- kk`. -/
def execLoadImm (x : Nibble) (kk : Byte) (s : State) : Result := .next (s.setReg x kk)

/-- add-imm (R141): `reg[x] <- (reg[x] + kk) mod 256`, no flag. -/
def execAddImm (x : Nibble) (kk : Byte) (s : State) : Result := .next (s.setReg x (s.reg x + kk))

/-- move (R142): `reg[x] <- reg[y]`. -/
def execMove (x y : Nibble) (s : State) : Result := .next (s.setReg x (s.reg y))

/-- or (R143): no flag. -/
def execOrReg (x y : Nibble) (s : State) : Result := .next (s.setReg x (s.reg x ||| s.reg y))

/-- and (R144): no flag. -/
def execAndReg (x y : Nibble) (s : State) : Result := .next (s.setReg x (s.reg x &&& s.reg y))

/-- xor (R145): no flag. -/
def execXorReg (x y : Nibble) (s : State) : Result := .next (s.setReg x (s.reg x ^^^ s.reg y))

/-- add-reg (R146): the sum modulo 256, then `F` the carry. -/
def execAddReg (x y : Nibble) (s : State) : Result :=
  .next (s.setRegThenFlag x (s.reg x + s.reg y) (carryOut (s.reg x) (s.reg y)))

/-- sub-reg (R147): `reg[x] - reg[y]` modulo 256, then `F` = 1 iff no borrow. -/
def execSubReg (x y : Nibble) (s : State) : Result :=
  .next (s.setRegThenFlag x (s.reg x - s.reg y) (noBorrow (s.reg x) (s.reg y)))

/-- shift-right (R148): `F` the old bit 0, then `reg[x]` shifted right one place, a zero entering. -/
def execShiftRight (x : Nibble) (s : State) : Result :=
  .next (s.setFlagThenShift x (lowBitOut (s.reg x)) fun v => v >>> 1)

/-- subn-reg (R149): `reg[y] - reg[x]` modulo 256, then `F` = 1 iff no borrow. -/
def execSubnReg (x y : Nibble) (s : State) : Result :=
  .next (s.setRegThenFlag x (s.reg y - s.reg x) (noBorrow (s.reg y) (s.reg x)))

/-- shift-left (R150): `F` the old bit 7, then `reg[x]` shifted left one place, old bit 7 dropped. -/
def execShiftLeft (x : Nibble) (s : State) : Result :=
  .next (s.setFlagThenShift x (highBitOut (s.reg x)) fun v => v <<< 1)

end Sys2Proof.Machine
end

