-- ==== Sys2Proof/Machine/ControlFlow.lean ====
section
/-!
DEFINITION. Control transfer: return, jump, call, jump-offset (R120 to R123). `pc` at entry is the instruction's address + 2. None writes
`F`, a general register or memory.
-/

namespace Sys2Proof.Machine

/-- return (R120): `if sp = 0 then raise StackUnderflow; pc <- stack[sp]; sp <- sp - 1`. With `sp` above 15 there is no slot to read
(DESIGN CHOICE, safe, unreachable: entry 8). -/
def execRet (s : State) : Result :=
  if s.sp = 0#8 then .next (s.raise .stackUnderflow)
  else match s.slot? s.sp.toNat with
    | none => .fault (.noStackSlot s.sp.toNat)
    | some a => .next { s with pc := a, sp := s.sp - 1#8 }

/-- jump (R121): `pc <- zext_16(nnn)`. -/
def execJump (nnn : Addr12) (s : State) : Result := .next (s.setPc (zext12 nnn))

/-- call (R122): `if sp = 15 then raise StackOverflow; sp <- sp + 1; stack[sp] <- pc; pc <- zext_16(nnn)`. With `sp` above 15 there is
no slot to write (DESIGN CHOICE, safe, unreachable: entry 8). -/
def execCall (nnn : Addr12) (s : State) : Result :=
  if s.sp = 15#8 then .next (s.raise .stackOverflow)
  else match s.setSlot? (s.sp.toNat + 1) s.pc with
    | none => .fault (.noStackSlot (s.sp.toNat + 1))
    | some t => .next { t with pc := zext12 nnn, sp := s.sp + 1#8 }

/-- jump-offset (R123): `pc <- zext_16(nnn) + zext_16(reg[0])`. -/
def execJumpOffset (nnn : Addr12) (s : State) : Result := .next (s.setPc (s.offsetTarget nnn))

end Sys2Proof.Machine
end

