-- ==== Sys2Proof/Machine/IndexMemory.lean ====
section
/-!
DEFINITION. Index register and memory instructions (R160 to R164). No block instruction changes `index`. None writes `F` as a flag.
-/

namespace Sys2Proof.Machine

/-- load-index (R160): `index <- zext_16(nnn)`. -/
def execLoadIndex (nnn : Addr12) (s : State) : Result := .next (s.setIndex (zext12 nnn))

/-- add-index (R161): `index + zext_16(reg[x])` as an integer, raising `IndexOverflow` above 65535. -/
def execAddIndex (x : Nibble) (s : State) : Result :=
  settle s <|
    if 65535 < s.index.toNat + (s.reg x).toNat then .error .indexOverflow
    else .ok (s.setIndex (s.index + zext8 (s.reg x)))

/-- bcd (R162): the decimal digits of `reg[x]` at `index`, `index + 1`, `index + 2`. -/
def execBcd (x : Nibble) (s : State) : Result :=
  settle s do
    s.checkRange 2
    s.storeDigits (s.reg x)

/-- store-block (R163): `reg[0]` to `reg[x]` to memory from `index`. -/
def execStoreBlock (x : Nibble) (s : State) : Result :=
  settle s do
    s.checkRange x.toNat
    s.storeRegs x

/-- load-block (R164): `reg[0]` to `reg[x]` from memory at `index`. -/
def execLoadBlock (x : Nibble) (s : State) : Result :=
  settle s do
    s.checkRange x.toNat
    s.loadRegs x

end Sys2Proof.Machine
end

