-- ==== Sys2Proof/Machine/Output.lean ====
section
/-!
DEFINITION. Output and halt (R170 to R172). The prints change nothing but `out` (D24).
-/

namespace Sys2Proof.Machine

/-- print-regs (R170): `emit PrintRegs([reg[0], ..., reg[x]])`. -/
def execPrintRegs (x : Nibble) (s : State) : Result := .next (s.emit (.printRegs ((upTo x).map s.reg)))

/-- print-mem (R171): `emit PrintMem` of the `x + 1` bytes from `index`. -/
def execPrintMem (x : Nibble) (s : State) : Result :=
  settle s do
    s.checkRange x.toNat
    let bs ← s.readBlock x
    return s.emit (.printMem bs)

/-- halt (R172): `emit HaltNotice; status <- Halted(1)`. Not a fault (R189). -/
def execHalt (s : State) : Result :=
  .next { s.emit .haltNotice with status := .halted Config.haltExitStatus }

end Sys2Proof.Machine
end

