-- ==== Sys2Proof/Machine/Skips.lean ====
section
/-!
DEFINITION. The conditional skips (R130 to R133): an equality of unsigned bytes, and 2 more on the already advanced `pc` if it holds.
-/

namespace Sys2Proof.Machine

/-- skip-eq-imm (R130). -/
def execSkipEqImm (x : Nibble) (kk : Byte) (s : State) : Result := .next (s.skipIf (s.reg x == kk))

/-- skip-neq-imm (R131). -/
def execSkipNeqImm (x : Nibble) (kk : Byte) (s : State) : Result := .next (s.skipIf (s.reg x != kk))

/-- skip-eq-reg (R132). -/
def execSkipEqReg (x y : Nibble) (s : State) : Result := .next (s.skipIf (s.reg x == s.reg y))

/-- skip-neq-reg (R133). -/
def execSkipNeqReg (x y : Nibble) (s : State) : Result := .next (s.skipIf (s.reg x != s.reg y))

end Sys2Proof.Machine
end

