-- ==== Sys2Proof/Machine/Unrecognised.lean ====
section
/-!
DEFINITION. The 19 unrecognised sub-opcodes (R79, R110, R111). Each reports itself and changes nothing else (R112); each has a
definition of its own over the shared `unrecognisedWord`.
-/

namespace Sys2Proof.Machine

/-- unrecognised-8-8 (R112). -/
def execUnrecognised88 (w : Word) (s : State) : Result := unrecognisedWord w s

/-- unrecognised-8-9 (R112). -/
def execUnrecognised89 (w : Word) (s : State) : Result := unrecognisedWord w s

/-- unrecognised-8-A (R112). -/
def execUnrecognised8A (w : Word) (s : State) : Result := unrecognisedWord w s

/-- unrecognised-8-B (R112). -/
def execUnrecognised8B (w : Word) (s : State) : Result := unrecognisedWord w s

/-- unrecognised-8-C (R112). -/
def execUnrecognised8C (w : Word) (s : State) : Result := unrecognisedWord w s

/-- unrecognised-8-D (R112). -/
def execUnrecognised8D (w : Word) (s : State) : Result := unrecognisedWord w s

/-- unrecognised-8-F (R112). -/
def execUnrecognised8F (w : Word) (s : State) : Result := unrecognisedWord w s

/-- unrecognised-F-3 (R112). -/
def execUnrecognisedF3 (w : Word) (s : State) : Result := unrecognisedWord w s

/-- unrecognised-F-4 (R112). -/
def execUnrecognisedF4 (w : Word) (s : State) : Result := unrecognisedWord w s

/-- unrecognised-F-5 (R112). -/
def execUnrecognisedF5 (w : Word) (s : State) : Result := unrecognisedWord w s

/-- unrecognised-F-6 (R112). -/
def execUnrecognisedF6 (w : Word) (s : State) : Result := unrecognisedWord w s

/-- unrecognised-F-7 (R112). -/
def execUnrecognisedF7 (w : Word) (s : State) : Result := unrecognisedWord w s

/-- unrecognised-F-8 (R112). -/
def execUnrecognisedF8 (w : Word) (s : State) : Result := unrecognisedWord w s

/-- unrecognised-F-9 (R112). -/
def execUnrecognisedF9 (w : Word) (s : State) : Result := unrecognisedWord w s

/-- unrecognised-F-A (R112). -/
def execUnrecognisedFA (w : Word) (s : State) : Result := unrecognisedWord w s

/-- unrecognised-F-B (R112). -/
def execUnrecognisedFB (w : Word) (s : State) : Result := unrecognisedWord w s

/-- unrecognised-F-C (R112). -/
def execUnrecognisedFC (w : Word) (s : State) : Result := unrecognisedWord w s

/-- unrecognised-F-D (R112). -/
def execUnrecognisedFD (w : Word) (s : State) : Result := unrecognisedWord w s

/-- unrecognised-F-E (R112). -/
def execUnrecognisedFE (w : Word) (s : State) : Result := unrecognisedWord w s

end Sys2Proof.Machine
end

