-- ==== Sys2Proof/Machine/Dispatch.lean ====
section
/-!
DEFINITION. The dispatch on the decoded instruction: one arm per row of the opcode table (R109 to R112), each a direct call.
-/

namespace Sys2Proof.Machine

def exec (i : Instr) (s : State) : Host.Outcome State Fault Refusal :=
  match i with
  | .ret => Sys2Proof.Machine.execRet s
  | .jump nnn => Sys2Proof.Machine.execJump nnn s
  | .call nnn => Sys2Proof.Machine.execCall nnn s
  | .skipEqImm x kk => Sys2Proof.Machine.execSkipEqImm x kk s
  | .skipNeqImm x kk => Sys2Proof.Machine.execSkipNeqImm x kk s
  | .skipEqReg x y => Sys2Proof.Machine.execSkipEqReg x y s
  | .loadImm x kk => Sys2Proof.Machine.execLoadImm x kk s
  | .addImm x kk => Sys2Proof.Machine.execAddImm x kk s
  | .move x y => Sys2Proof.Machine.execMove x y s
  | .orReg x y => Sys2Proof.Machine.execOrReg x y s
  | .andReg x y => Sys2Proof.Machine.execAndReg x y s
  | .xorReg x y => Sys2Proof.Machine.execXorReg x y s
  | .addReg x y => Sys2Proof.Machine.execAddReg x y s
  | .subReg x y => Sys2Proof.Machine.execSubReg x y s
  | .shiftRight x => Sys2Proof.Machine.execShiftRight x s
  | .subnReg x y => Sys2Proof.Machine.execSubnReg x y s
  | .unrecognised88 w => Sys2Proof.Machine.execUnrecognised88 w s
  | .unrecognised89 w => Sys2Proof.Machine.execUnrecognised89 w s
  | .unrecognised8A w => Sys2Proof.Machine.execUnrecognised8A w s
  | .unrecognised8B w => Sys2Proof.Machine.execUnrecognised8B w s
  | .unrecognised8C w => Sys2Proof.Machine.execUnrecognised8C w s
  | .unrecognised8D w => Sys2Proof.Machine.execUnrecognised8D w s
  | .shiftLeft x => Sys2Proof.Machine.execShiftLeft x s
  | .unrecognised8F w => Sys2Proof.Machine.execUnrecognised8F w s
  | .skipNeqReg x y => Sys2Proof.Machine.execSkipNeqReg x y s
  | .loadIndex nnn => Sys2Proof.Machine.execLoadIndex nnn s
  | .jumpOffset nnn => Sys2Proof.Machine.execJumpOffset nnn s
  | .addIndex x => Sys2Proof.Machine.execAddIndex x s
  | .bcd x => Sys2Proof.Machine.execBcd x s
  | .storeBlock x => Sys2Proof.Machine.execStoreBlock x s
  | .loadBlock x => Sys2Proof.Machine.execLoadBlock x s
  | .printRegs x => Sys2Proof.Machine.execPrintRegs x s
  | .printMem x => Sys2Proof.Machine.execPrintMem x s
  | .unrecognisedF3 w => Sys2Proof.Machine.execUnrecognisedF3 w s
  | .unrecognisedF4 w => Sys2Proof.Machine.execUnrecognisedF4 w s
  | .unrecognisedF5 w => Sys2Proof.Machine.execUnrecognisedF5 w s
  | .unrecognisedF6 w => Sys2Proof.Machine.execUnrecognisedF6 w s
  | .unrecognisedF7 w => Sys2Proof.Machine.execUnrecognisedF7 w s
  | .unrecognisedF8 w => Sys2Proof.Machine.execUnrecognisedF8 w s
  | .unrecognisedF9 w => Sys2Proof.Machine.execUnrecognisedF9 w s
  | .unrecognisedFA w => Sys2Proof.Machine.execUnrecognisedFA w s
  | .unrecognisedFB w => Sys2Proof.Machine.execUnrecognisedFB w s
  | .unrecognisedFC w => Sys2Proof.Machine.execUnrecognisedFC w s
  | .unrecognisedFD w => Sys2Proof.Machine.execUnrecognisedFD w s
  | .unrecognisedFE w => Sys2Proof.Machine.execUnrecognisedFE w s
  | .halt => Sys2Proof.Machine.execHalt s

end Sys2Proof.Machine
end

