-- ==== Sys2Proof/Machine/Step.lean ====
section
/-!
DEFINITION. One cycle (R105, R114), and the host's way of placing the next instruction.
-/

namespace Sys2Proof.Machine

/-- One cycle: the bounds test of `pc`, the fetch, the advance of `pc`, the trace, then the handler (R114, R116). A stopped engine has no
step (R32, R105): it answers a fault that carries the terminal status (entry 2). -/
def step (s : State) : Host.Outcome State Fault Refusal :=
  match s.status with
  | .halted e => .fault (.engineHalted e)
  | .faulted c => .fault (.engineFaulted c)
  | .running =>
    match s.fetchWord s.pc.toNat with
    | .error r => .next (s.raise r)
    | .ok w => exec (decodeWord w) (s.fetched w)

/-- `s` with the instruction of `decodeTableWord nbits w` stored where the next fetch reads: its two bytes at `pc` and `pc + 1`, where both
are addresses of memory. It stands for the host's load (R214, entry 1). -/
def State.withFetchWord (s : State) (nbits w : Nat) : State :=
  if s.pc.toNat + 1 < Config.memSize then { s with mem := s.mem.writeBytes s.pc.toNat (tableBytes nbits w) } else s

end Sys2Proof.Machine
end

