-- ==== Sys2Proof/Machine/Run.lean ====
section
/-!
DEFINITION. The host's side of a run: the load before the first cycle (R214 to R216) and what the host is handed at the end (R32,
R187). The two OPEN parameters appear here only, as the argument `p` (entry 10).
-/

namespace Sys2Proof.Machine

/-- Why no run starts. The rejection is the host's error, not a state of the engine (R215). -/
inductive LoadError where
  | oversizedImage
deriving DecidableEq, Repr

/-- The load (R214): byte `k` of the image to address `512 + k`; an image longer than 3584 bytes is rejected and nothing is loaded
(R215, D16, entry 15). -/
def loadImage (img : List Byte) (s : State) : Except LoadError State :=
  if Config.maxImage < img.length then .error .oversizedImage
  else .ok { s with mem := s.mem.writeBytes Config.progBase img }

/-- The exit status the host sees: none while running, that of halt, or the host's number for the cause (R4, R32, D13). -/
def exitStatus (p : Config.HostParams) : RunStatus → Option Nat
  | .running => none
  | .halted e => some e
  | .faulted c => some (p.faultExitStatus c)

/-- The sink's text, one piece for each event in order (R34, D14). -/
def rendered (p : Config.HostParams) (s : State) : List String := s.out.map p.sinkFormat

end Sys2Proof.Machine
end

