-- ==== Sys2Proof/Safety.lean ====
section
/-!
DEFINITION. What counts as a safe run, the invariants of R38, and the words in which statements say what an instruction leaves alone.
-/

namespace Sys2Proof.Machine

/-- A Faulted end is never a successful end (R187). -/
abbrev State.notFaulted (s : State) : Prop := ∀ c, s.status ≠ .faulted c

/-- A run from `s` is safe for `k` cycles when it meets no fatal condition on the way: after each number of cycles up to `k`, either the
engine had stopped before or the state reached is not Faulted. -/
def SafeRun (s : State) (k : Nat) : Prop := ∀ j ≤ k, ∀ t, core.run j s = .next t → t.notFaulted

/-- The invariants of R38: `sp` at most 15, slot 0 never written, every slot 0 or a value 2 to 4096, `pc` at most 4350; with
them 1 as the only exit status of a halt (R32, R172), and, by the model's own choice of form (entry 9, DESIGN CHOICE), the canonical
form of the memory list. -/
structure State.Inv (s : State) : Prop where
  sp_le : s.sp.toNat ≤ 15
  slot_zero : s.stack[0] = 0#16
  slots : ∀ j : Fin 16, s.stack[j] = 0#16 ∨ (2 ≤ s.stack[j].toNat ∧ s.stack[j].toNat ≤ 4096)
  pc_le : s.pc.toNat ≤ 4350
  mem_wf : s.mem.wf
  halt_one : ∀ e, s.status = .halted e → e = 1

/-- The 19 unrecognised sub-opcodes as constructors, in the table's order (R79). -/
def unrecognisedForms : List (Word → Instr) :=
  [.unrecognised88, .unrecognised89, .unrecognised8A, .unrecognised8B, .unrecognised8C, .unrecognised8D, .unrecognised8F,
   .unrecognisedF3, .unrecognisedF4, .unrecognisedF5, .unrecognisedF6, .unrecognisedF7, .unrecognisedF8, .unrecognisedF9,
   .unrecognisedFA, .unrecognisedFB, .unrecognisedFC, .unrecognisedFD, .unrecognisedFE]

/-- The word the next fetch of `s` reads, when both its bytes are addresses of memory: the byte at `pc` is the more significant (R52). -/
def State.nextWord (s : State) : Word := fromBytes (s.mem.read s.pc.toNat) (s.mem.read (s.pc.toNat + 1))

/-- `t` is reached from `s` in `k` cycles, each answering a next state. -/
def State.reaches (s : State) (k : Nat) (t : State) : Prop := core.run k s = .next t

/-- Every byte of memory reads in `t` as in `s`. -/
def State.sameMemory (s t : State) : Prop := ∀ a, t.mem.read a = s.mem.read a

/-- Every general register holds in `t` what it holds in `s`. -/
def State.sameRegs (s t : State) : Prop := ∀ i, t.reg i = s.reg i

/-- The return stack and its pointer are the same. -/
def State.sameStack (s t : State) : Prop := t.sp = s.sp ∧ t.stack = s.stack

/-- All state but the general registers is the same, every byte of memory included. -/
def State.sameButRegs (s t : State) : Prop :=
  t.index = s.index ∧ t.pc = s.pc ∧ s.sameStack t ∧ s.sameMemory t ∧ t.status = s.status ∧ t.out = s.out

/-- All state but `pc` is the same. -/
def State.sameButPc (s t : State) : Prop :=
  s.sameRegs t ∧ t.index = s.index ∧ s.sameStack t ∧ s.sameMemory t ∧ t.status = s.status ∧ t.out = s.out

/-- All state but memory is the same. -/
def State.sameButMemory (s t : State) : Prop :=
  s.sameRegs t ∧ t.index = s.index ∧ t.pc = s.pc ∧ s.sameStack t ∧ t.status = s.status ∧ t.out = s.out

/-- All state but `index` is the same. -/
def State.sameButIndex (s t : State) : Prop :=
  s.sameRegs t ∧ t.pc = s.pc ∧ s.sameStack t ∧ s.sameMemory t ∧ t.status = s.status ∧ t.out = s.out

/-- All state but `out` is the same. -/
def State.sameButOut (s t : State) : Prop :=
  s.sameRegs t ∧ t.index = s.index ∧ t.pc = s.pc ∧ s.sameStack t ∧ s.sameMemory t ∧ t.status = s.status

/-- All state but `pc`, `sp` and `stack` is the same. -/
def State.sameButStackPc (s t : State) : Prop :=
  s.sameRegs t ∧ t.index = s.index ∧ s.sameMemory t ∧ t.status = s.status ∧ t.out = s.out

/-- `t` is `s` after the fatal condition `c`: `status` is `Faulted(c)` and everything else is as it was (R187). -/
def State.faultedWith (s t : State) (c : FaultCause) : Prop :=
  t.status = .faulted c ∧ s.sameRegs t ∧ t.index = s.index ∧ t.pc = s.pc ∧ s.sameStack t ∧ s.sameMemory t ∧ t.out = s.out

end Sys2Proof.Machine
end

