-- ==== Sys2Proof/Certificates/Slice0/Obligations.lean ====
section
/-!
DEFINITION. The statements for the provers. Each docstring names the rule of `spec/` it formalises. Statements about one
instruction give its encoding (the words it takes, by match and mask), its effect as a next state that `exec` answers, and its frame.
-/

open Sys2Proof Sys2Proof.Machine

/-! ### The decoder and the encoder -/

/-- R94 to R101: the field views and their seven laws, for every word and all bytes. -/
def Obligations.DecoderFieldLaws : Prop :=
  (∀ w : Word, (fieldOpcode w).toNat = w.toNat / 2 ^ 12 ∧
    w.toNat = (fieldOpcode w).toNat * 4096 + (fieldX w).toNat * 256 + (fieldY w).toNat * 16 + (fieldN w).toNat ∧
    w.toNat = (fieldOpcode w).toNat * 4096 + (fieldX w).toNat * 256 + (fieldKK w).toNat ∧
    w.toNat = (fieldOpcode w).toNat * 4096 + (fieldNNN w).toNat ∧
    (∀ v : Word, v = w → fieldOpcode v = fieldOpcode w ∧ fieldX v = fieldX w ∧ fieldY v = fieldY w ∧ fieldN v = fieldN w ∧
      fieldKK v = fieldKK w ∧ fieldNNN v = fieldNNN w) ∧
    (fieldKK w).toNat = (fieldY w).toNat * 16 + (fieldN w).toNat ∧
    (fieldNNN w).toNat = (fieldX w).toNat * 256 + (fieldKK w).toNat ∧
    fromBytes (toBytes w).1 (toBytes w).2 = w ∧
    (fieldOpcode w).toNat < 16 ∧ (fieldX w).toNat < 16 ∧ (fieldY w).toNat < 16 ∧ (fieldN w).toNat < 16 ∧
    (fieldKK w).toNat < 256 ∧ (fieldNNN w).toNat < 4096) ∧
  ∀ b0 b1 : Byte, toBytes (fromBytes b0 b1) = (b0, b1)

/-- Words of the spec's own examples and vectors, at least one for each value of `opcode` (R12), decode to the instruction they stand for. -/
def Obligations.SampleWordsDecode : Prop :=
  decodeWord 0x0ABC#16 = .ret ∧ decodeWord 0x1204#16 = .jump 0x204#12 ∧ decodeWord 0x220E#16 = .call 0x20E#12 ∧
  decodeWord 0x3F01#16 = .skipEqImm 0xF#4 0x01#8 ∧ decodeWord 0x42FF#16 = .skipNeqImm 2#4 0xFF#8 ∧
  decodeWord 0x512A#16 = .skipEqReg 1#4 2#4 ∧ decodeWord 0x9120#16 = .skipNeqReg 1#4 2#4 ∧
  decodeWord 0x6011#16 = .loadImm 0#4 0x11#8 ∧ decodeWord 0x71FF#16 = .addImm 1#4 0xFF#8 ∧ decodeWord 0x8EF0#16 = .move 0xE#4 0xF#4 ∧
  decodeWord 0x8014#16 = .addReg 0#4 1#4 ∧ decodeWord 0x8016#16 = .shiftRight 0#4 ∧ decodeWord 0x8128#16 = .unrecognised88 0x8128#16 ∧
  decodeWord 0xA600#16 = .loadIndex 0x600#12 ∧ decodeWord 0xB214#16 = .jumpOffset 0x214#12 ∧
  decodeWord 0xC300#16 = .addIndex 3#4 ∧ decodeWord 0xD500#16 = .bcd 5#4 ∧
  decodeWord 0xE100#16 = .storeBlock 1#4 ∧ decodeWord 0xF1A0#16 = .loadBlock 1#4 ∧ decodeWord 0xF202#16 = .printMem 2#4 ∧
  decodeWord 0xF12F#16 = .halt ∧ decodeWord 0xF165#16 = .unrecognisedF5 0xF165#16

/-- Decode of encode, for every well-formed instruction, through the bytes in memory order and whatever bytes follow. -/
def Obligations.DecodeOfEncodeIsIdentity : Prop :=
  ∀ i : Instr, i.wellFormed = true →
    decodeWord (encode i) = i ∧ ∀ rest, decode (encodeBytes i ++ rest) = .ok (i, rest)

/-- Every word decodes to a well-formed instruction of the one table row that takes it; the 46 rows match every word exactly once. -/
def Obligations.OneTableRowTakesEachWord : Prop :=
  ∀ w : Word, (decodeWord w).wellFormed = true ∧ opcodeTable.filter (fun r => r.takes w) = [(decodeWord w).row]

/-- R79: the unrecognised words are exactly those with `opcode` 8 and `n` in 8 to D or F, and `opcode` F and `n` in 3 to E. -/
def Obligations.UnrecognisedWordsAreExactlyThese : Prop :=
  ∀ w : Word, (∃ c ∈ unrecognisedForms, decodeWord w = c w) ↔
    (fieldOpcode w = 0x8#4 ∧ fieldN w ∈ [0x8#4, 0x9#4, 0xA#4, 0xB#4, 0xC#4, 0xD#4, 0xF#4]) ∨
    (fieldOpcode w = 0xF#4 ∧
      fieldN w ∈ [0x3#4, 0x4#4, 0x5#4, 0x6#4, 0x7#4, 0x8#4, 0x9#4, 0xA#4, 0xB#4, 0xC#4, 0xD#4, 0xE#4])

/-- R77: two words that differ only in ignored bits are the same instruction, so have the same effect; in an unrecognised word of family
F the bits of `y` do not choose the row. -/
def Obligations.IgnoredBitsDoNotChoose : Prop :=
  ∀ v w : Word,
    (fieldOpcode v = 0x0#4 → fieldOpcode w = 0x0#4 → decodeWord v = decodeWord w) ∧
    (fieldOpcode v = 0x5#4 ∨ fieldOpcode v = 0x9#4 → v &&& 0xFFF0#16 = w &&& 0xFFF0#16 → decodeWord v = decodeWord w) ∧
    (fieldOpcode v = 0xC#4 ∨ fieldOpcode v = 0xD#4 ∨ fieldOpcode v = 0xE#4 → v &&& 0xFF00#16 = w &&& 0xFF00#16 →
      decodeWord v = decodeWord w) ∧
    (fieldOpcode v = 0x8#4 → fieldN v = 0x6#4 ∨ fieldN v = 0xE#4 → v &&& 0xFF0F#16 = w &&& 0xFF0F#16 →
      decodeWord v = decodeWord w) ∧
    (fieldOpcode v = 0xF#4 → fieldN v = 0x0#4 ∨ fieldN v = 0x1#4 ∨ fieldN v = 0x2#4 → v &&& 0xFF0F#16 = w &&& 0xFF0F#16 →
      decodeWord v = decodeWord w) ∧
    (fieldOpcode v = 0xF#4 → v &&& 0xFF0F#16 = w &&& 0xFF0F#16 → (decodeWord v).row = (decodeWord w).row) ∧
    (fieldOpcode v = 0xF#4 → fieldN v = 0xF#4 → v &&& 0xF00F#16 = w &&& 0xF00F#16 → decodeWord v = decodeWord w)

/-- What the encoder writes is the canonical word: of all the words that decode to the instruction, the one with every ignored bit 0,
and 0xFFFF for halt (R12, R78). The ignored bits are written as masks of the bits that count. -/
def Obligations.EncodeWritesTheCanonicalWord : Prop :=
  ∀ w : Word, encode (decodeWord w) =
    match decodeWord w with
    | .ret => 0x0000#16
    | .skipEqReg _ _ | .skipNeqReg _ _ => w &&& 0xFFF0#16
    | .addIndex _ | .bcd _ | .storeBlock _ => w &&& 0xFF00#16
    | .shiftRight _ | .shiftLeft _ | .loadBlock _ | .printRegs _ | .printMem _ => w &&& 0xFF0F#16
    | .halt => 0xFFFF#16
    | _ => w

/-! ### Control transfer -/

/-- R120. -/
def Obligations.ReturnPopsTheReturnAddress : Prop :=
  (∀ w : Word, w &&& 0xF000#16 = 0x0000#16 → decodeWord w = .ret) ∧ encode .ret = 0x0000#16 ∧
  (∀ s : State, s.sp.toNat = 0 → ∃ t, exec .ret s = .next t ∧ s.faultedWith t .stackUnderflow) ∧
  ∀ s : State, 1 ≤ s.sp.toNat → s.sp.toNat ≤ 15 →
    ∃ t, exec .ret s = .next t ∧ s.stack[s.sp.toNat]? = some t.pc ∧ t.sp.toNat = s.sp.toNat - 1 ∧ t.stack = s.stack ∧
      s.sameButStackPc t

/-- R121. -/
def Obligations.JumpGoesToItsAddress : Prop :=
  (∀ w : Word, w &&& 0xF000#16 = 0x1000#16 → decodeWord w = .jump (fieldNNN w)) ∧
  ∀ nnn (s : State), ∃ t, exec (.jump nnn) s = .next t ∧ t.pc.toNat = nnn.toNat ∧ s.sameButPc t

/-- R122. -/
def Obligations.CallPushesTheReturnAddress : Prop :=
  (∀ w : Word, w &&& 0xF000#16 = 0x2000#16 → decodeWord w = .call (fieldNNN w)) ∧
  (∀ nnn (s : State), s.sp.toNat = 15 → ∃ t, exec (.call nnn) s = .next t ∧ s.faultedWith t .stackOverflow) ∧
  ∀ nnn (s : State), s.sp.toNat ≤ 14 →
    ∃ t, exec (.call nnn) s = .next t ∧ t.sp.toNat = s.sp.toNat + 1 ∧ t.stack[s.sp.toNat + 1]? = some s.pc ∧
      (∀ j, j ≠ s.sp.toNat + 1 → t.stack[j]? = s.stack[j]?) ∧ t.pc.toNat = nnn.toNat ∧ s.sameButStackPc t

/-- R123. -/
def Obligations.JumpOffsetAddsRegisterZero : Prop :=
  (∀ w : Word, w &&& 0xF000#16 = 0xB000#16 → decodeWord w = .jumpOffset (fieldNNN w)) ∧
  ∀ nnn (s : State), ∃ t, exec (.jumpOffset nnn) s = .next t ∧ t.pc.toNat = nnn.toNat + (s.reg 0#4).toNat ∧ s.sameButPc t

/-- The model's own choice (entry 8), no rule of the spec: with `sp` above 15, where R29 has no slot, return and call stop by name. No
state that meets the invariant has such an `sp`. -/
def Obligations.NoSlotAboveFifteen : Prop :=
  ∀ s : State, 15 < s.sp.toNat →
    exec .ret s = .fault (.noStackSlot s.sp.toNat) ∧
    (∀ nnn, exec (.call nnn) s = .fault (.noStackSlot (s.sp.toNat + 1))) ∧ ¬ s.Inv

/-! ### Skips -/

/-- R130 and R131. `pc` at entry is the skip's address + 2. Of a `pc` above 65533, which no run reaches (R26), nothing is said: there
the model's own choice decides (entry 7). -/
def Obligations.ImmediateSkipsCompareARegister : Prop :=
  (∀ w : Word, w &&& 0xF000#16 = 0x3000#16 → decodeWord w = .skipEqImm (fieldX w) (fieldKK w)) ∧
  (∀ w : Word, w &&& 0xF000#16 = 0x4000#16 → decodeWord w = .skipNeqImm (fieldX w) (fieldKK w)) ∧
  ∀ x kk (s : State),
    (∃ t, exec (.skipEqImm x kk) s = .next t ∧ s.sameButPc t ∧
      (s.pc.toNat ≤ 65533 → t.pc.toNat = if s.reg x = kk then s.pc.toNat + 2 else s.pc.toNat)) ∧
    (∃ t, exec (.skipNeqImm x kk) s = .next t ∧ s.sameButPc t ∧
      (s.pc.toNat ≤ 65533 → t.pc.toNat = if s.reg x = kk then s.pc.toNat else s.pc.toNat + 2))

/-- R132 and R133, under the same condition on `pc`. -/
def Obligations.RegisterSkipsCompareTwoRegisters : Prop :=
  (∀ w : Word, w &&& 0xF000#16 = 0x5000#16 → decodeWord w = .skipEqReg (fieldX w) (fieldY w)) ∧
  (∀ x y : Nibble, (encode (.skipEqReg x y)).toNat = 0x5000 + x.toNat * 256 + y.toNat * 16) ∧
  (∀ w : Word, w &&& 0xF000#16 = 0x9000#16 → decodeWord w = .skipNeqReg (fieldX w) (fieldY w)) ∧
  (∀ x y : Nibble, (encode (.skipNeqReg x y)).toNat = 0x9000 + x.toNat * 256 + y.toNat * 16) ∧
  ∀ x y (s : State),
    (∃ t, exec (.skipEqReg x y) s = .next t ∧ s.sameButPc t ∧
      (s.pc.toNat ≤ 65533 → t.pc.toNat = if s.reg x = s.reg y then s.pc.toNat + 2 else s.pc.toNat)) ∧
    (∃ t, exec (.skipNeqReg x y) s = .next t ∧ s.sameButPc t ∧
      (s.pc.toNat ≤ 65533 → t.pc.toNat = if s.reg x = s.reg y then s.pc.toNat else s.pc.toNat + 2))

/-! ### Registers and ALU -/

/-- R140. Register 15 is an ordinary destination. -/
def Obligations.LoadImmSetsOneRegister : Prop :=
  (∀ w : Word, w &&& 0xF000#16 = 0x6000#16 → decodeWord w = .loadImm (fieldX w) (fieldKK w)) ∧
  ∀ x kk (s : State), ∃ t, exec (.loadImm x kk) s = .next t ∧ t.reg x = kk ∧ (∀ j, j ≠ x → t.reg j = s.reg j) ∧ s.sameButRegs t

/-- R141: no flag side effect. -/
def Obligations.AddImmWrapsWithoutFlag : Prop :=
  (∀ w : Word, w &&& 0xF000#16 = 0x7000#16 → decodeWord w = .addImm (fieldX w) (fieldKK w)) ∧
  ∀ x kk (s : State), ∃ t, exec (.addImm x kk) s = .next t ∧ (t.reg x).toNat = ((s.reg x).toNat + kk.toNat) % 256 ∧
    (∀ j, j ≠ x → t.reg j = s.reg j) ∧ s.sameButRegs t

/-- R142. -/
def Obligations.MoveCopiesARegister : Prop :=
  (∀ w : Word, w &&& 0xF00F#16 = 0x8000#16 → decodeWord w = .move (fieldX w) (fieldY w)) ∧
  ∀ x y (s : State), ∃ t, exec (.move x y) s = .next t ∧ t.reg x = s.reg y ∧ (∀ j, j ≠ x → t.reg j = s.reg j) ∧ s.sameButRegs t

/-- R143, R144, R145: bit by bit, no flag. -/
def Obligations.LogicalOperationsLeaveTheFlag : Prop :=
  (∀ w : Word, w &&& 0xF00F#16 = 0x8001#16 → decodeWord w = .orReg (fieldX w) (fieldY w)) ∧
  (∀ w : Word, w &&& 0xF00F#16 = 0x8002#16 → decodeWord w = .andReg (fieldX w) (fieldY w)) ∧
  (∀ w : Word, w &&& 0xF00F#16 = 0x8003#16 → decodeWord w = .xorReg (fieldX w) (fieldY w)) ∧
  ∀ x y (s : State),
    (∃ t, exec (.orReg x y) s = .next t ∧ (∀ k, (t.reg x).getLsbD k = ((s.reg x).getLsbD k || (s.reg y).getLsbD k)) ∧
      (∀ j, j ≠ x → t.reg j = s.reg j) ∧ s.sameButRegs t) ∧
    (∃ t, exec (.andReg x y) s = .next t ∧ (∀ k, (t.reg x).getLsbD k = ((s.reg x).getLsbD k && (s.reg y).getLsbD k)) ∧
      (∀ j, j ≠ x → t.reg j = s.reg j) ∧ s.sameButRegs t) ∧
    (∃ t, exec (.xorReg x y) s = .next t ∧ (∀ k, (t.reg x).getLsbD k = ((s.reg x).getLsbD k ^^ (s.reg y).getLsbD k)) ∧
      (∀ j, j ≠ x → t.reg j = s.reg j) ∧ s.sameButRegs t)

/-- R146: the operands are the values before the instruction, `x` or `y` may be 15; with `x` = 15 the carry overwrites the sum. -/
def Obligations.AddRegWritesSumAndCarry : Prop :=
  (∀ w : Word, w &&& 0xF00F#16 = 0x8004#16 → decodeWord w = .addReg (fieldX w) (fieldY w)) ∧
  ∀ x y (s : State), ∃ t, exec (.addReg x y) s = .next t ∧
    (x ≠ 15#4 → (t.reg x).toNat = ((s.reg x).toNat + (s.reg y).toNat) % 256) ∧
    (t.reg 15#4).toNat = (if 256 ≤ (s.reg x).toNat + (s.reg y).toNat then 1 else 0) ∧
    (∀ j, j ≠ x → j ≠ 15#4 → t.reg j = s.reg j) ∧ s.sameButRegs t

/-- R147 and R149: `F` is 1 when no borrow occurred; `(a - b) mod 256` is written as `(a + 256 - b) % 256`. -/
def Obligations.SubtractionsWriteDifferenceAndNoBorrow : Prop :=
  (∀ w : Word, w &&& 0xF00F#16 = 0x8005#16 → decodeWord w = .subReg (fieldX w) (fieldY w)) ∧
  (∀ w : Word, w &&& 0xF00F#16 = 0x8007#16 → decodeWord w = .subnReg (fieldX w) (fieldY w)) ∧
  ∀ x y (s : State),
    (∃ t, exec (.subReg x y) s = .next t ∧
      (x ≠ 15#4 → (t.reg x).toNat = ((s.reg x).toNat + 256 - (s.reg y).toNat) % 256) ∧
      (t.reg 15#4).toNat = (if (s.reg y).toNat ≤ (s.reg x).toNat then 1 else 0) ∧
      (∀ j, j ≠ x → j ≠ 15#4 → t.reg j = s.reg j) ∧ s.sameButRegs t) ∧
    (∃ t, exec (.subnReg x y) s = .next t ∧
      (x ≠ 15#4 → (t.reg x).toNat = ((s.reg y).toNat + 256 - (s.reg x).toNat) % 256) ∧
      (t.reg 15#4).toNat = (if (s.reg x).toNat ≤ (s.reg y).toNat then 1 else 0) ∧
      (∀ j, j ≠ x → j ≠ 15#4 → t.reg j = s.reg j) ∧ s.sameButRegs t)

/-- R148: with `x` = 15 the final register is 0 whatever it held. -/
def Obligations.ShiftRightWritesFlagThenRegister : Prop :=
  (∀ w : Word, w &&& 0xF00F#16 = 0x8006#16 → decodeWord w = .shiftRight (fieldX w)) ∧
  (∀ x : Nibble, (encode (.shiftRight x)).toNat = 0x8006 + x.toNat * 256) ∧
  ∀ x (s : State), ∃ t, exec (.shiftRight x) s = .next t ∧
    (x ≠ 15#4 → (t.reg x).toNat = (s.reg x).toNat / 2 ∧ (t.reg 15#4).toNat = (s.reg x).toNat % 2) ∧
    (x = 15#4 → (t.reg 15#4).toNat = 0) ∧
    (∀ j, j ≠ x → j ≠ 15#4 → t.reg j = s.reg j) ∧ s.sameButRegs t

/-- R150: with `x` = 15 the final register is 2 if the old bit 7 was 1, else 0. -/
def Obligations.ShiftLeftWritesFlagThenRegister : Prop :=
  (∀ w : Word, w &&& 0xF00F#16 = 0x800E#16 → decodeWord w = .shiftLeft (fieldX w)) ∧
  (∀ x : Nibble, (encode (.shiftLeft x)).toNat = 0x800E + x.toNat * 256) ∧
  ∀ x (s : State), ∃ t, exec (.shiftLeft x) s = .next t ∧
    (x ≠ 15#4 → (t.reg x).toNat = 2 * (s.reg x).toNat % 256 ∧ (t.reg 15#4).toNat = (s.reg x).toNat / 128) ∧
    (x = 15#4 → (t.reg 15#4).toNat = (if 128 ≤ (s.reg x).toNat then 2 else 0)) ∧
    (∀ j, j ≠ x → j ≠ 15#4 → t.reg j = s.reg j) ∧ s.sameButRegs t

/-! ### Index register and memory -/

/-- R160. -/
def Obligations.LoadIndexSetsTheIndex : Prop :=
  (∀ w : Word, w &&& 0xF000#16 = 0xA000#16 → decodeWord w = .loadIndex (fieldNNN w)) ∧
  ∀ nnn (s : State), ∃ t, exec (.loadIndex nnn) s = .next t ∧ t.index.toNat = nnn.toNat ∧ s.sameButIndex t

/-- R161 and R185: an integer sum; above 65535 the engine faults and `index` keeps its value. -/
def Obligations.AddIndexAddsOrFaults : Prop :=
  (∀ w : Word, w &&& 0xF000#16 = 0xC000#16 → decodeWord w = .addIndex (fieldX w)) ∧
  (∀ x : Nibble, (encode (.addIndex x)).toNat = 0xC000 + x.toNat * 256) ∧
  ∀ x (s : State),
    (s.index.toNat + (s.reg x).toNat ≤ 65535 →
      ∃ t, exec (.addIndex x) s = .next t ∧ t.index.toNat = s.index.toNat + (s.reg x).toNat ∧ s.sameButIndex t) ∧
    (65535 < s.index.toNat + (s.reg x).toNat → ∃ t, exec (.addIndex x) s = .next t ∧ s.faultedWith t .indexOverflow)

/-- R162: three bytes at the effective addresses, nothing else; out of range nothing is written. -/
def Obligations.BcdStoresThreeDigits : Prop :=
  (∀ w : Word, w &&& 0xF000#16 = 0xD000#16 → decodeWord w = .bcd (fieldX w)) ∧
  (∀ x : Nibble, (encode (.bcd x)).toNat = 0xD000 + x.toNat * 256) ∧
  ∀ x (s : State),
    (s.index.toNat + 2 ≤ 4095 →
      ∃ t, exec (.bcd x) s = .next t ∧
        (t.mem.read (s.effAddr 0)).toNat = (s.reg x).toNat / 100 ∧
        (t.mem.read (s.effAddr 1)).toNat = (s.reg x).toNat / 10 % 10 ∧
        (t.mem.read (s.effAddr 2)).toNat = (s.reg x).toNat % 10 ∧
        (∀ a, a ≠ s.effAddr 0 → a ≠ s.effAddr 1 → a ≠ s.effAddr 2 → t.mem.read a = s.mem.read a) ∧ s.sameButMemory t) ∧
    (4095 < s.index.toNat + 2 → ∃ t, exec (.bcd x) s = .next t ∧ s.faultedWith t .memoryOutOfBounds)

/-- R163: byte `index + i` becomes `reg[i]` for `i` up to `x`, nothing else; out of range nothing is written. -/
def Obligations.StoreBlockStoresRegisters : Prop :=
  (∀ w : Word, w &&& 0xF000#16 = 0xE000#16 → decodeWord w = .storeBlock (fieldX w)) ∧
  (∀ x : Nibble, (encode (.storeBlock x)).toNat = 0xE000 + x.toNat * 256) ∧
  ∀ x (s : State),
    (s.index.toNat + x.toNat ≤ 4095 →
      ∃ t, exec (.storeBlock x) s = .next t ∧
        (∀ i : Nibble, i.toNat ≤ x.toNat → t.mem.read (s.effAddr i.toNat) = s.reg i) ∧
        (∀ a, (∀ i : Nibble, i.toNat ≤ x.toNat → a ≠ s.effAddr i.toNat) → t.mem.read a = s.mem.read a) ∧ s.sameButMemory t) ∧
    (4095 < s.index.toNat + x.toNat → ∃ t, exec (.storeBlock x) s = .next t ∧ s.faultedWith t .memoryOutOfBounds)

/-- R164: `reg[i]` becomes byte `index + i` for `i` up to `x`; `F` only with `x` = 15; out of range no register changes. -/
def Obligations.LoadBlockLoadsRegisters : Prop :=
  (∀ w : Word, w &&& 0xF00F#16 = 0xF000#16 → decodeWord w = .loadBlock (fieldX w)) ∧
  (∀ x : Nibble, (encode (.loadBlock x)).toNat = 0xF000 + x.toNat * 256) ∧
  ∀ x (s : State),
    (s.index.toNat + x.toNat ≤ 4095 →
      ∃ t, exec (.loadBlock x) s = .next t ∧
        (∀ i : Nibble, i.toNat ≤ x.toNat → t.reg i = s.mem.read (s.effAddr i.toNat)) ∧
        (∀ i : Nibble, x.toNat < i.toNat → t.reg i = s.reg i) ∧ s.sameButRegs t) ∧
    (4095 < s.index.toNat + x.toNat → ∃ t, exec (.loadBlock x) s = .next t ∧ s.faultedWith t .memoryOutOfBounds)

/-- R57: the check answers the lowest address of the range `index` to `index + k` that exceeds 4095, and lets every range within memory
through. -/
def Obligations.RangeCheckNamesTheLowestAddress : Prop :=
  ∀ (s : State) (k : Nat),
    (s.index.toNat + k ≤ 4095 → s.checkRange k = .ok ()) ∧
    (4095 < s.index.toNat + k →
      ∃ a, s.checkRange k = .error (.memoryOutOfBounds a) ∧ 4095 < a ∧ s.index.toNat ≤ a ∧ a ≤ s.index.toNat + k ∧
        ∀ b, 4095 < b → s.index.toNat ≤ b → b ≤ s.index.toNat + k → a ≤ b)

/-- R164: "A store-block followed by a load-block with the same `x` and `index` restores the registers it saved", whatever else has
changed between them but those bytes and `index`. -/
def Obligations.LoadBlockRestoresWhatStoreBlockSaved : Prop :=
  ∀ (x : Nibble) (s t u : State), s.index.toNat + x.toNat ≤ 4095 → exec (.storeBlock x) s = .next t → u.index = s.index →
    (∀ i : Nibble, i.toNat ≤ x.toNat → u.mem.read (u.effAddr i.toNat) = t.mem.read (s.effAddr i.toNat)) →
    ∃ v, exec (.loadBlock x) u = .next v ∧ ∀ i : Nibble, v.reg i = if i.toNat ≤ x.toNat then s.reg i else u.reg i

/-! ### Output, halt and the unrecognised word -/

/-- R170: `x + 1` bytes, register 0 first; only `out` changes. -/
def Obligations.PrintRegsEmitsRegisters : Prop :=
  (∀ w : Word, w &&& 0xF00F#16 = 0xF001#16 → decodeWord w = .printRegs (fieldX w)) ∧
  (∀ x : Nibble, (encode (.printRegs x)).toNat = 0xF001 + x.toNat * 256) ∧
  ∀ x (s : State), ∃ t bs, exec (.printRegs x) s = .next t ∧ t.out = s.out ++ [.printRegs bs] ∧ bs.length = x.toNat + 1 ∧
    (∀ i : Nibble, i.toNat ≤ x.toNat → bs[i.toNat]? = some (s.reg i)) ∧ s.sameButOut t

/-- R171: `x + 1` bytes from `index`, lowest address first; only `out` changes; out of range nothing is emitted. -/
def Obligations.PrintMemEmitsBytes : Prop :=
  (∀ w : Word, w &&& 0xF00F#16 = 0xF002#16 → decodeWord w = .printMem (fieldX w)) ∧
  (∀ x : Nibble, (encode (.printMem x)).toNat = 0xF002 + x.toNat * 256) ∧
  ∀ x (s : State),
    (s.index.toNat + x.toNat ≤ 4095 →
      ∃ t bs, exec (.printMem x) s = .next t ∧ t.out = s.out ++ [.printMem bs] ∧ bs.length = x.toNat + 1 ∧
        (∀ k, k ≤ x.toNat → bs[k]? = some (s.mem.read (s.effAddr k))) ∧ s.sameButOut t) ∧
    (4095 < s.index.toNat + x.toNat → ∃ t, exec (.printMem x) s = .next t ∧ s.faultedWith t .memoryOutOfBounds)

/-- R172: the notice, `Halted(1)`, nothing else, and no further step. -/
def Obligations.HaltEndsTheRun : Prop :=
  (∀ w : Word, w &&& 0xF00F#16 = 0xF00F#16 → decodeWord w = .halt) ∧ encode .halt = 0xFFFF#16 ∧
  ∀ s : State, ∃ t, exec .halt s = .next t ∧ t.status = .halted 1 ∧ t.out = s.out ++ [.haltNotice] ∧
    s.sameRegs t ∧ t.index = s.index ∧ t.pc = s.pc ∧ s.sameStack t ∧ s.sameMemory t ∧ ∀ u, step t ≠ .next u

/-- R112, for each of the 19 constructors: `Diagnostic(w)` and nothing else, still as running as before. -/
def Obligations.UnrecognisedWordsOnlyReport : Prop :=
  ∀ c ∈ unrecognisedForms, ∀ (w : Word) (s : State),
    ∃ t, exec (c w) s = .next t ∧ t.out = s.out ++ [.diagnostic w] ∧ s.sameButOut t

/-- The cycle of an unrecognised word, by the `opcode` and `n` that make it one (R112, R186): `pc` past it, `Trace(w)` then
`Diagnostic(w)`, everything else as it was. -/
def Obligations.UnrecognisedCycleContinues : Prop :=
  ∀ s : State, s.status = .running → s.pc.toNat ≤ 4094 →
    (fieldOpcode s.nextWord = 0x8#4 ∧ fieldN s.nextWord ∈ [0x8#4, 0x9#4, 0xA#4, 0xB#4, 0xC#4, 0xD#4, 0xF#4]) ∨
      (fieldOpcode s.nextWord = 0xF#4 ∧ 0x3 ≤ (fieldN s.nextWord).toNat ∧ (fieldN s.nextWord).toNat ≤ 0xE) →
    ∃ t, step s = .next t ∧ t.pc.toNat = s.pc.toNat + 2 ∧ t.out = s.out ++ [.trace s.nextWord, .diagnostic s.nextWord] ∧
      t.status = .running ∧ s.sameRegs t ∧ t.index = s.index ∧ s.sameStack t ∧ s.sameMemory t

/-! ### The cycle -/

/-- When the bytes at `pc` decode to a well-formed instruction, a running cycle is that instruction's meaning in the state with `pc` past
it and the word traced. -/
def Obligations.StepRunsTheDecodedInstruction : Prop :=
  ∀ (s : State) (i : Instr), s.status = .running → s.pc.toNat ≤ 4094 →
    decode [s.mem.read s.pc.toNat, s.mem.read (s.pc.toNat + 1)] = .ok (i, []) → i.wellFormed = true →
    step s = exec i { s with
      pc := s.pc + 2#16
      out := s.out ++ [.trace (BitVec.ofNat 16 ((s.mem.read s.pc.toNat).toNat * 256 + (s.mem.read (s.pc.toNat + 1)).toNat))] }

/-- R54: a fetch at any address, odd or even, reads two bytes with the lower address the high byte, and faults exactly from 4095 on. -/
def Obligations.FetchNeedsNoAlignment : Prop :=
  ∀ (s : State) (a : Nat),
    (a < 4095 → ∃ w, s.fetchWord a = .ok w ∧ w.toNat = (s.mem.read a).toNat * 256 + (s.mem.read (a + 1)).toNat) ∧
    (4095 ≤ a → s.fetchWord a = .error (.fetchOutOfBounds a))

/-- R181: only `status` changes. -/
def Obligations.FetchOutOfBoundsFaults : Prop :=
  ∀ s : State, s.status = .running → 4095 ≤ s.pc.toNat → ∃ t, step s = .next t ∧ s.faultedWith t .fetchOutOfBounds

/-- R105: a step exists only when `status = Running`. -/
def Obligations.StoppedEngineHasNoStep : Prop :=
  ∀ s t : State, step s = .next t → s.status = .running

/-- R222: a Running engine always has a next step, in every state whose `sp` names a slot (R28). -/
def Obligations.RunningEngineAlwaysSteps : Prop :=
  ∀ s : State, s.status = .running → s.sp.toNat ≤ 15 → ∃ t, step s = .next t

/-- No instruction is refused, and none stops but return and call where `sp` names no slot (entry 8). -/
def Obligations.EveryInstructionCompletes : Prop :=
  ∀ (i : Instr) (s : State),
    (∃ t, exec i s = .next t) ∨ (15 < s.sp.toNat ∧ (i = .ret ∨ ∃ nnn, i = .call nnn) ∧ ∃ k, exec i s = .fault (.noStackSlot k))

/-- R25: how each instruction leaves `pc`, the two kinds of fault included. -/
def Obligations.PcAfterEachCycle : Prop :=
  ∀ s t : State, step s = .next t →
    (4095 ≤ s.pc.toNat → t.pc = s.pc) ∧
    (s.pc.toNat < 4095 → (∃ c, t.status = .faulted c) → t.pc.toNat = s.pc.toNat + 2) ∧
    (s.pc.toNat < 4095 → t.notFaulted →
      match decodeWord s.nextWord with
      | .ret => s.stack[s.sp.toNat]? = some t.pc
      | .jump nnn | .call nnn => t.pc.toNat = nnn.toNat
      | .jumpOffset nnn => t.pc.toNat = nnn.toNat + (s.reg 0#4).toNat
      | .skipEqImm x kk => t.pc.toNat = s.pc.toNat + (if s.reg x = kk then 4 else 2)
      | .skipNeqImm x kk => t.pc.toNat = s.pc.toNat + (if s.reg x = kk then 2 else 4)
      | .skipEqReg x y => t.pc.toNat = s.pc.toNat + (if s.reg x = s.reg y then 4 else 2)
      | .skipNeqReg x y => t.pc.toNat = s.pc.toNat + (if s.reg x = s.reg y then 2 else 4)
      | .halt => t.pc.toNat = s.pc.toNat + 2 ∧ ∀ u, step t ≠ .next u
      | _ => t.pc.toNat = s.pc.toNat + 2)

/-- R108 and R116: what a cycle can append to `out`, in order; a faulting fetch appends nothing. -/
def Obligations.EventsOfACycle : Prop :=
  ∀ s t : State, step s = .next t →
    (4095 ≤ s.pc.toNat ∧ t.out = s.out) ∨
    (s.pc.toNat < 4095 ∧
      (t.out = s.out ++ [.trace s.nextWord] ∨
        ∃ e, t.out = s.out ++ [.trace s.nextWord, e] ∧
          (e = .diagnostic s.nextWord ∨ (∃ bs, e = .printRegs bs) ∨ (∃ bs, e = .printMem bs) ∨ e = .haltNotice)))

/-- R34: `out` is write-only for the engine. Whatever was emitted before, a cycle does the same and appends the same. -/
def Obligations.OutputIsNeverRead : Prop :=
  ∀ (s t : State) (earlier : List Event), step s = .next t →
    step { s with out := earlier ++ s.out } = .next { t with out := earlier ++ t.out }

/-- Which instruction writes what (the table of `10_state.md` section 1, R21, R23 to R34, R50, R198), one clause for each piece of state
in the order stack, `sp`, memory, `index`, `pc`, `status`, `out`, registers. What the fetch itself writes, `pc` and the trace, happens
before `exec` and is said by `StepRunsTheDecodedInstruction`. -/
def Obligations.OnlyTheNamedInstructionsWrite : Prop :=
  ∀ (i : Instr) (s t : State), exec i s = .next t →
    (t.stack = s.stack ∨ ∃ nnn, i = .call nnn) ∧
    (t.sp = s.sp ∨ i = .ret ∨ ∃ nnn, i = .call nnn) ∧
    (s.sameMemory t ∨ ∃ x, i = .bcd x ∨ i = .storeBlock x) ∧
    (t.index = s.index ∨ (∃ nnn, i = .loadIndex nnn) ∨ ∃ x, i = .addIndex x) ∧
    (t.pc = s.pc ∨ i = .ret ∨ (∃ nnn, i = .jump nnn ∨ i = .call nnn ∨ i = .jumpOffset nnn) ∨
      (∃ x kk, i = .skipEqImm x kk ∨ i = .skipNeqImm x kk) ∨ ∃ x y, i = .skipEqReg x y ∨ i = .skipNeqReg x y) ∧
    (t.status = s.status ∨ (i = .halt ∧ t.status = .halted 1) ∨
      ((i = .ret ∨ (∃ nnn, i = .call nnn) ∨
        ∃ x, i = .addIndex x ∨ i = .bcd x ∨ i = .storeBlock x ∨ i = .loadBlock x ∨ i = .printMem x) ∧
        ∃ c, t.status = .faulted c)) ∧
    (t.out = s.out ∨ i = .halt ∨ (∃ x, i = .printRegs x ∨ i = .printMem x) ∨ ∃ c ∈ unrecognisedForms, ∃ w, i = c w) ∧
    ∀ j : Nibble, t.reg j = s.reg j ∨
      (∃ kk, i = .loadImm j kk ∨ i = .addImm j kk) ∨
      (∃ y, i = .move j y ∨ i = .orReg j y ∨ i = .andReg j y ∨ i = .xorReg j y) ∨
      (∃ x y, (j = x ∨ j = 15#4) ∧ (i = .addReg x y ∨ i = .subReg x y ∨ i = .subnReg x y)) ∨
      (∃ x, (j = x ∨ j = 15#4) ∧ (i = .shiftRight x ∨ i = .shiftLeft x)) ∨
      ∃ x : Nibble, j.toNat ≤ x.toNat ∧ i = .loadBlock x

/-- R188 and R198: what each cycle can raise, and nothing else. -/
def Obligations.EachFaultHasItsInstruction : Prop :=
  ∀ (s t : State) (c : FaultCause), step s = .next t → t.status = .faulted c →
    match c with
    | .fetchOutOfBounds => 4095 ≤ s.pc.toNat
    | .stackUnderflow => s.pc.toNat < 4095 ∧ decodeWord s.nextWord = .ret ∧ s.sp.toNat = 0
    | .stackOverflow => s.pc.toNat < 4095 ∧ (∃ nnn, decodeWord s.nextWord = .call nnn) ∧ s.sp.toNat = 15
    | .indexOverflow =>
        s.pc.toNat < 4095 ∧ ∃ x, decodeWord s.nextWord = .addIndex x ∧ 65535 < s.index.toNat + (s.reg x).toNat
    | .memoryOutOfBounds =>
        s.pc.toNat < 4095 ∧ ∃ x : Nibble,
          (decodeWord s.nextWord = .bcd x ∧ 4095 < s.index.toNat + 2) ∨
          ((decodeWord s.nextWord = .storeBlock x ∨ decodeWord s.nextWord = .loadBlock x ∨ decodeWord s.nextWord = .printMem x) ∧
            4095 < s.index.toNat + x.toNat)

/-- R187: a fault is precise. Of the faulting cycle only the fetch's advance of `pc` and `Trace(w)` have happened, and for a fetch fault
not even those; the engine takes no further step. -/
def Obligations.FaultsArePrecise : Prop :=
  ∀ (s t : State) (c : FaultCause), step s = .next t → t.status = .faulted c →
    s.sameRegs t ∧ t.index = s.index ∧ s.sameStack t ∧ s.sameMemory t ∧ (∀ u, step t ≠ .next u) ∧
    ((c = .fetchOutOfBounds ∧ t.pc = s.pc ∧ t.out = s.out) ∨
      (c ≠ .fetchOutOfBounds ∧ t.pc.toNat = s.pc.toNat + 2 ∧ t.out = s.out ++ [.trace s.nextWord]))

/-- R184: bcd, store-block, load-block and print-mem fault exactly when their range passes 4095, from a state that is not Faulted. -/
def Obligations.MemoryFaultsExactlyOutOfRange : Prop :=
  ∀ (x : Nibble) (s : State), s.notFaulted →
    (∃ t, exec (.bcd x) s = .next t ∧ (t.status = .faulted .memoryOutOfBounds ↔ 4095 < s.index.toNat + 2) ∧
      (4095 < s.index.toNat + 2 → s.faultedWith t .memoryOutOfBounds)) ∧
    ∀ i ∈ [Instr.storeBlock x, Instr.loadBlock x, Instr.printMem x],
      ∃ t, exec i s = .next t ∧ (t.status = .faulted .memoryOutOfBounds ↔ 4095 < s.index.toNat + x.toNat) ∧
        (4095 < s.index.toNat + x.toNat → s.faultedWith t .memoryOutOfBounds)

/-- R182 and R183: call faults exactly at `sp` = 15 and return exactly at `sp` = 0, from a state that is not Faulted and whose `sp` names a
slot. -/
def Obligations.StackFaultsExactlyAtItsEnds : Prop :=
  ∀ s : State, s.notFaulted → s.sp.toNat ≤ 15 →
    (∀ nnn, ∃ t, exec (.call nnn) s = .next t ∧ (t.status = .faulted .stackOverflow ↔ s.sp.toNat = 15) ∧
      (s.sp.toNat = 15 → s.faultedWith t .stackOverflow)) ∧
    ∃ t, exec .ret s = .next t ∧ (t.status = .faulted .stackUnderflow ↔ s.sp.toNat = 0) ∧
      (s.sp.toNat = 0 → s.faultedWith t .stackUnderflow)

/-- R62: a store-block over the next instruction's bytes is seen by the very next fetch. -/
def Obligations.StoredCodeIsFetchedNext : Prop :=
  ∀ (s t : State) (x k k' : Nibble), s.pc.toNat ≤ 4094 → decodeWord s.nextWord = .storeBlock x → step s = .next t →
    s.index.toNat + x.toNat ≤ 4095 → k'.toNat = k.toNat + 1 → k'.toNat ≤ x.toNat →
    s.effAddr k.toNat = s.pc.toNat + 2 →
    t.nextWord = fromBytes (s.reg k) (s.reg k') ∧
      step t = exec (decodeWord (fromBytes (s.reg k) (s.reg k'))) (t.fetched (fromBytes (s.reg k) (s.reg k')))

/-! ### Reset, load and the invariant -/

/-- R210. -/
def Obligations.ResetLeavesTheseValues : Prop :=
  (∀ i, State.reset.reg i = 0#8) ∧ State.reset.index = 0#16 ∧ State.reset.pc.toNat = 512 ∧ State.reset.sp = 0#8 ∧
  (∀ j, j < 16 → State.reset.stack[j]? = some 0#16) ∧ (∀ a, State.reset.mem.read a = 0#8) ∧
  State.reset.status = .running ∧ State.reset.out = []

/-- R214 and R215: after reset, byte `k` of the image goes to address `512 + k`, every other byte keeps its reset value 0 and all other
state is as reset left it; a longer image is rejected. -/
def Obligations.LoadPlacesTheImage : Prop :=
  ∀ img : List Byte,
    (img.length ≤ 3584 → ∃ t, loadImage img State.reset = .ok t ∧
      (∀ k, k < img.length → img[k]? = some (t.mem.read (512 + k))) ∧
      (∀ a, a < 512 ∨ 512 + img.length ≤ a → t.mem.read a = 0#8) ∧ State.reset.sameButMemory t) ∧
    (3584 < img.length → loadImage img State.reset = .error .oversizedImage)

/-- The invariant holds at reset: the clauses of R38, 1 as the exit status of a halt (R32), and the canonical form of the memory list. That
last clause is no rule of the spec but the model's own choice of form (entry 9, DESIGN CHOICE). -/
def Obligations.ResetMeetsTheInvariant : Prop := State.reset.Inv

/-- Every step keeps the invariant, from every state that meets it: the clauses of R38, 1 as the exit status of a halt (R32), and the
canonical form of the memory list. That last clause is no rule of the spec but the model's own choice of form (entry 9, DESIGN
CHOICE). -/
def Obligations.EveryStepKeepsTheInvariant : Prop :=
  ∀ s t : State, s.Inv → step s = .next t → t.Inv

/-- R38 over runs: whatever image is loaded, every state the run reaches meets the invariant, and a running one has a next step, so that
a run ends only by halt or fault (R115). Of the invariant the clauses on `sp`, the stack and `pc` are R38's and the exit status of a
halt is R32's; the canonical form of the memory list is no rule of the spec but the model's own choice of form (entry 9, DESIGN
CHOICE). -/
def Obligations.LoadedRunsEndOnlyByHaltOrFault : Prop :=
  ∀ (img : List Byte) (s t : State) (k : Nat), loadImage img State.reset = .ok s → s.reaches k t →
    t.Inv ∧ ((∃ u, step t = .next u) ∨ t.status = .halted 1 ∨ ∃ c, t.status = .faulted c)

/-- R187, item 4: the host is handed a terminal condition for halt and for each cause, and none while the engine runs: 1 for `Halted(1)`
(R32), its own number for a cause. That a cause's number differs from that of every other cause and of halt is what R4 and D13 require
of the OPEN parameter `FAULT_EXIT_STATUS`; the model assumes it of the host, as the fields `distinct` and `notHalt` of `HostParams` (entry
10, DEDUCED), and the last two clauses carry it over to `exitStatus`. -/
def Obligations.TerminalConditionsAreDistinct : Prop :=
  ∀ p : Config.HostParams,
    (∀ r : RunStatus, exitStatus p r = none ↔ r = .running) ∧
    exitStatus p (.halted 1) = some 1 ∧
    (∀ c, exitStatus p (.faulted c) = some (p.faultExitStatus c)) ∧
    (∀ c, exitStatus p (.faulted c) ≠ exitStatus p (.halted 1)) ∧
    ∀ c d, c ≠ d → exitStatus p (.faulted c) ≠ exitStatus p (.faulted d)
end

