-- ==== Sys2Proof/Laws/Decode.lean ====
section
/-!
SUPPORT. The fields of the words the encoder writes, and the decoder's choice in terms of the fields.
-/

namespace Sys2Proof

/-! ### Fields as numbers -/

theorem toNat_concat {n m : Nat} (a : BitVec n) (b : BitVec m) : (a ++ b).toNat = a.toNat * 2 ^ m + b.toNat := by
  rw [BitVec.toNat_append, ← Nat.shiftLeft_add_eq_or_of_lt b.isLt, Nat.shiftLeft_eq]

theorem toNat_fieldOpcode (w : Word) : (fieldOpcode w).toNat = w.toNat / 4096 := by
  have := w.isLt
  simp only [fieldOpcode, BitVec.extractLsb'_toNat, Nat.shiftRight_eq_div_pow]; omega

theorem toNat_fieldX (w : Word) : (fieldX w).toNat = w.toNat / 256 % 16 := by
  simp [fieldX, BitVec.extractLsb'_toNat, Nat.shiftRight_eq_div_pow]

theorem toNat_fieldY (w : Word) : (fieldY w).toNat = w.toNat / 16 % 16 := by
  simp [fieldY, BitVec.extractLsb'_toNat, Nat.shiftRight_eq_div_pow]

theorem toNat_fieldN (w : Word) : (fieldN w).toNat = w.toNat % 16 := by
  simp [fieldN, BitVec.extractLsb'_toNat]

theorem toNat_fieldKK (w : Word) : (fieldKK w).toNat = w.toNat % 256 := by
  simp [fieldKK, BitVec.extractLsb'_toNat]

theorem toNat_fieldNNN (w : Word) : (fieldNNN w).toNat = w.toNat % 4096 := by
  simp [fieldNNN, BitVec.extractLsb'_toNat]

theorem toNat_fromBytes (b0 b1 : Byte) : (fromBytes b0 b1).toNat = b0.toNat * 256 + b1.toNat := toNat_concat b0 b1

theorem toNat_encodeNNN (op : Nibble) (nnn : Addr12) : (encodeNNN op nnn).toNat = op.toNat * 4096 + nnn.toNat :=
  toNat_concat op nnn

theorem toNat_encodeXKK (op x : Nibble) (kk : Byte) :
    (encodeXKK op x kk).toNat = op.toNat * 4096 + x.toNat * 256 + kk.toNat := by
  have h : (encodeXKK op x kk).toNat = (op ++ x).toNat * 256 + kk.toNat := toNat_concat (op ++ x) kk
  rw [h, toNat_concat]; omega

theorem toNat_encodeXYN (op x y n : Nibble) :
    (encodeXYN op x y n).toNat = op.toNat * 4096 + x.toNat * 256 + y.toNat * 16 + n.toNat := by
  have h : (encodeXYN op x y n).toNat = (op ++ x ++ y).toNat * 16 + n.toNat := toNat_concat (op ++ x ++ y) n
  have h2 : (op ++ x ++ y).toNat = (op ++ x).toNat * 16 + y.toNat := toNat_concat (op ++ x) y
  rw [h, h2, toNat_concat]; omega

/-! ### Fields of an encoded word -/

section Fields

variable (op x y n : Nibble) (kk : Byte) (nnn : Addr12)

@[simp] theorem fieldOpcode_encodeXYN : fieldOpcode (encodeXYN op x y n) = op := by
  apply BitVec.eq_of_toNat_eq; rw [toNat_fieldOpcode, toNat_encodeXYN]; omega

@[simp] theorem fieldX_encodeXYN : fieldX (encodeXYN op x y n) = x := by
  apply BitVec.eq_of_toNat_eq; rw [toNat_fieldX, toNat_encodeXYN]; omega

@[simp] theorem fieldY_encodeXYN : fieldY (encodeXYN op x y n) = y := by
  apply BitVec.eq_of_toNat_eq; rw [toNat_fieldY, toNat_encodeXYN]; omega

@[simp] theorem fieldN_encodeXYN : fieldN (encodeXYN op x y n) = n := by
  apply BitVec.eq_of_toNat_eq; rw [toNat_fieldN, toNat_encodeXYN]; omega

@[simp] theorem fieldOpcode_encodeXKK : fieldOpcode (encodeXKK op x kk) = op := by
  apply BitVec.eq_of_toNat_eq; rw [toNat_fieldOpcode, toNat_encodeXKK]; omega

@[simp] theorem fieldX_encodeXKK : fieldX (encodeXKK op x kk) = x := by
  apply BitVec.eq_of_toNat_eq; rw [toNat_fieldX, toNat_encodeXKK]; omega

@[simp] theorem fieldKK_encodeXKK : fieldKK (encodeXKK op x kk) = kk := by
  apply BitVec.eq_of_toNat_eq; rw [toNat_fieldKK, toNat_encodeXKK]; omega

@[simp] theorem fieldOpcode_encodeNNN : fieldOpcode (encodeNNN op nnn) = op := by
  apply BitVec.eq_of_toNat_eq; rw [toNat_fieldOpcode, toNat_encodeNNN]; omega

@[simp] theorem fieldNNN_encodeNNN : fieldNNN (encodeNNN op nnn) = nnn := by
  apply BitVec.eq_of_toNat_eq; rw [toNat_fieldNNN, toNat_encodeNNN]; omega

end Fields

/-! ### Words from their nibbles -/

/-- Every word is its four nibbles (R101). -/
theorem word_eq_nibbles (w : Word) : w = encodeXYN (fieldOpcode w) (fieldX w) (fieldY w) (fieldN w) := by
  apply BitVec.eq_of_toNat_eq
  rw [toNat_encodeXYN, toNat_fieldOpcode, toNat_fieldX, toNat_fieldY, toNat_fieldN]; omega

theorem and_concat {n m : Nat} (a b : BitVec n) (c d : BitVec m) : (a ++ c) &&& (b ++ d) = (a &&& b) ++ (c &&& d) := by
  ext i hi
  simp only [BitVec.getElem_and, BitVec.getElem_append]
  split <;> simp

/-- A mask of whole nibbles keeps or clears each nibble. -/
theorem and_nibbles (a b c d a' b' c' d' : Nibble) :
    encodeXYN a b c d &&& encodeXYN a' b' c' d' = encodeXYN (a &&& a') (b &&& b') (c &&& c') (d &&& d') := by
  have h1 : encodeXYN a b c d &&& encodeXYN a' b' c' d' = ((a ++ b ++ c) &&& (a' ++ b' ++ c')) ++ (d &&& d') :=
    and_concat (a ++ b ++ c) (a' ++ b' ++ c') d d'
  rw [h1, and_concat, and_concat]
  rfl

theorem encodeXYN_inj {a b c d a' b' c' d' : Nibble} :
    encodeXYN a b c d = encodeXYN a' b' c' d' ↔ a = a' ∧ b = b' ∧ c = c' ∧ d = d' := by
  constructor
  · intro h
    exact ⟨by simpa using congrArg fieldOpcode h, by simpa using congrArg fieldX h, by simpa using congrArg fieldY h,
      by simpa using congrArg fieldN h⟩
  · rintro ⟨rfl, rfl, rfl, rfl⟩; rfl

theorem and_allOnes4 (a : Nibble) : a &&& 0xF#4 = a := BitVec.and_allOnes

/-- A row of mask 0xF000 takes a word by its `opcode` alone (R77). -/
theorem and_mask_opcode (w : Word) (o : Nibble) : w &&& 0xF000#16 = encodeXYN o 0 0 0 ↔ fieldOpcode w = o := by
  conv_lhs => rw [word_eq_nibbles w, show (0xF000#16 : Word) = encodeXYN 0xF 0 0 0 from rfl, and_nibbles]
  rw [encodeXYN_inj]
  simp [and_allOnes4]

/-- A row of mask 0xF00F takes a word by its `opcode` and `n` (R77). -/
theorem and_mask_opcode_n (w : Word) (o k : Nibble) :
    w &&& 0xF00F#16 = encodeXYN o 0 0 k ↔ fieldOpcode w = o ∧ fieldN w = k := by
  conv_lhs => rw [word_eq_nibbles w, show (0xF00F#16 : Word) = encodeXYN 0xF 0 0 0xF from rfl, and_nibbles]
  rw [encodeXYN_inj]
  simp [and_allOnes4]

/-- The same with the row's match as one word, whose own other bits are 0. -/
theorem mask_opcode_iff (w v : Word) (hv : v &&& 0xF000#16 = v) : w &&& 0xF000#16 = v ↔ fieldOpcode w = fieldOpcode v := by
  have e := (and_mask_opcode v (fieldOpcode v)).mpr rfl
  rw [hv] at e
  rw [← and_mask_opcode w, ← e]

theorem mask_opcode_n_iff (w v : Word) (hv : v &&& 0xF00F#16 = v) :
    w &&& 0xF00F#16 = v ↔ fieldOpcode w = fieldOpcode v ∧ fieldN w = fieldN v := by
  have e := (and_mask_opcode_n v (fieldOpcode v) (fieldN v)).mpr ⟨rfl, rfl⟩
  rw [hv] at e
  rw [← and_mask_opcode_n w, ← e]

/-- Construction and serialisation are inverse (R101, laws 5 and 6, in numbers). -/
theorem toNat_toBytes (w : Word) : (toBytes w).1.toNat = w.toNat / 256 ∧ (toBytes w).2.toNat = w.toNat % 256 := by
  have := w.isLt
  simp only [toBytes, BitVec.extractLsb'_toNat, Nat.shiftRight_eq_div_pow]
  omega

/-! ### The last arm of each dispatch -/

theorem nibble_cases (o : Nibble) :
    o = 0#4 ∨ o = 1#4 ∨ o = 2#4 ∨ o = 3#4 ∨ o = 4#4 ∨ o = 5#4 ∨ o = 6#4 ∨ o = 7#4 ∨ o = 8#4 ∨ o = 9#4 ∨ o = 10#4 ∨
      o = 11#4 ∨ o = 12#4 ∨ o = 13#4 ∨ o = 14#4 ∨ o = 15#4 := by
  revert o; decide

theorem decodeWord_opcode_F {w : Word} (h : fieldOpcode w = 15#4) : decodeWord w = decodeFamilyF w := by
  simp only [decodeWord, h]; rfl

theorem decodeFamily8_n_F {w : Word} (h : fieldN w = 15#4) : decodeFamily8 w = .unrecognised8F w := by
  simp only [decodeFamily8, h]; rfl

theorem decodeFamilyF_n_F {w : Word} (h : fieldN w = 15#4) : decodeFamilyF w = .halt := by
  simp only [decodeFamilyF, h]; rfl

end Sys2Proof
end

