-- ==== Sys2Proof/Laws/Memory.lean ====
section
/-!
SUPPORT. Memory as data: a read after a write, and the canonical form that every memory operation keeps.
-/

namespace Sys2Proof.Machine.Memory

variable (m : Memory)

@[simp] theorem read_nil (a : Nat) : Memory.read [] a = resetByte := rfl

theorem read_insert (a b : Nat) (v : Byte) (h : ∀ c ∈ m, c.1 ≠ a) :
    (m.insert a v).read b = if a = b then v else m.read b := by
  induction m with
  | nil => simp [Memory.insert, Memory.read]
  | cons c m ih =>
    have hm : ∀ c ∈ m, c.1 ≠ a := fun d hd => h d (List.mem_cons_of_mem _ hd)
    have hc : c.1 ≠ a := h c List.mem_cons_self
    unfold Memory.insert
    split
    · simp [Memory.read]
    · rw [Memory.read, ih hm, Memory.read]
      by_cases hcb : c.1 = b
      · simp [hcb, show a ≠ b from fun e => hc (hcb.trans e.symm)]
      · simp [hcb]

theorem erase_ne {a : Nat} : ∀ c ∈ m.erase a, c.1 ≠ a := by
  intro c hc
  simpa using (List.mem_filter.mp hc).2

theorem read_erase (a b : Nat) : (m.erase a).read b = if a = b then resetByte else m.read b := by
  induction m with
  | nil => simp [Memory.erase, Memory.read]
  | cons c m ih =>
    have ih' : Memory.read (List.filter (fun c => c.1 != a) m) b = _ := ih
    by_cases hca : c.1 = a
    · simp only [Memory.erase, List.filter_cons, hca, bne_self_eq_false, Bool.false_eq_true, if_false, ih', Memory.read]
      split <;> simp_all
    · simp only [Memory.erase, List.filter_cons, bne_iff_ne.mpr hca, if_true, Memory.read, ih']
      by_cases hcb : c.1 = b
      · simp [hcb, show a ≠ b from fun e => hca (hcb.trans e.symm)]
      · simp [hcb]

/-- A read after a write: the byte written where it was written, and every other byte as before (R56, R60). -/
theorem read_write (a b : Nat) (v : Byte) : (m.write a v).read b = if a = b then v else m.read b := by
  unfold Memory.write
  split
  · next h => rw [read_erase, h]
  · rw [read_insert _ _ _ _ (erase_ne m), read_erase]
    split <;> rfl

@[simp] theorem read_write_self (a : Nat) (v : Byte) : (m.write a v).read a = v := by simp [read_write]

theorem read_write_ne {a b : Nat} (v : Byte) (h : a ≠ b) : (m.write a v).read b = m.read b := by simp [read_write, h]

theorem wf_nil : Memory.wf [] := by simp [Memory.wf]

theorem mem_insert {a : Nat} {v : Byte} {c : Host.Cell} : c ∈ m.insert a v ↔ c = (a, v) ∨ c ∈ m := by
  induction m with
  | nil => simp [Memory.insert]
  | cons d m ih =>
    unfold Memory.insert
    split
    · simp
    · rw [List.mem_cons, ih, List.mem_cons]; tauto

theorem pairwise_insert {a : Nat} {v : Byte} (hp : m.Pairwise (fun c d => c.1 < d.1)) (h : ∀ c ∈ m, c.1 ≠ a) :
    (m.insert a v).Pairwise (fun c d => c.1 < d.1) := by
  induction m with
  | nil => simp [Memory.insert]
  | cons d m ih =>
    have hd := List.pairwise_cons.mp hp
    unfold Memory.insert
    split
    · next hlt =>
      refine List.pairwise_cons.mpr ⟨fun c hc => ?_, hp⟩
      rcases List.mem_cons.mp hc with rfl | hc
      · exact hlt
      · exact hlt.trans (hd.1 c hc)
    · next hge =>
      refine List.pairwise_cons.mpr ⟨fun c hc => ?_, ih hd.2 fun c hc => h c (List.mem_cons_of_mem _ hc)⟩
      have hne := h d List.mem_cons_self
      rcases (mem_insert m).mp hc with rfl | hc
      · show d.1 < a; omega
      · exact hd.1 c hc

theorem wf_erase {a : Nat} (h : m.wf) : (m.erase a).wf :=
  ⟨h.1.filter _, fun c hc => h.2 c (List.mem_filter.mp hc).1⟩

/-- A write to an address of memory keeps the canonical form. -/
theorem wf_write {a : Nat} (v : Byte) (ha : a < Config.memSize) (h : m.wf) : (m.write a v).wf := by
  unfold Memory.write
  split
  · exact wf_erase m h
  · next hv =>
    refine ⟨pairwise_insert _ (wf_erase m h).1 (erase_ne m), fun c hc => ?_⟩
    rcases (mem_insert _).mp hc with rfl | hc
    · exact ⟨ha, hv⟩
    · exact (wf_erase m h).2 c hc

/-- The bytes of `bs` lie from `a` upward, and every other byte is as before. -/
theorem read_writeBytes (bs : List Byte) (a b : Nat) :
    (m.writeBytes a bs).read b = if a ≤ b then (bs[b - a]?).getD (m.read b) else m.read b := by
  induction bs generalizing m a with
  | nil => simp [Memory.writeBytes]
  | cons v bs ih =>
    rw [Memory.writeBytes, ih, read_write]
    rcases Nat.lt_trichotomy a b with h | rfl | h
    · have e : b - a = (b - (a + 1)) + 1 := by omega
      simp [h.le, Nat.succ_le_of_lt h, h.ne, e]
    · simp
    · simp [show ¬ a + 1 ≤ b by omega, show ¬ a ≤ b by omega, h.ne']

theorem wf_writeBytes (bs : List Byte) (a : Nat) (ha : a + bs.length ≤ Config.memSize) (h : m.wf) :
    (m.writeBytes a bs).wf := by
  induction bs generalizing m a with
  | nil => exact h
  | cons v bs ih =>
    rw [List.length_cons] at ha
    exact ih _ _ (by omega) (wf_write m v (by omega) h)

theorem read_of_mem {m : Memory} (h : m.wf) {c : Host.Cell} (hc : c ∈ m) : m.read c.1 = c.2 := by
  induction m with
  | nil => cases hc
  | cons d m ih =>
    have hd := List.pairwise_cons.mp h.1
    rcases List.mem_cons.mp hc with rfl | hc
    · simp [Memory.read]
    · have := hd.1 c hc
      simp [Memory.read, this.ne, ih ⟨hd.2, fun c hc => h.2 c (List.mem_cons_of_mem _ hc)⟩ hc]

theorem mem_of_read {m : Memory} {a : Nat} (h : m.read a ≠ resetByte) : (a, m.read a) ∈ m := by
  induction m with
  | nil => exact absurd rfl h
  | cons d m ih =>
    rw [Memory.read] at h ⊢
    split
    · next e => simp [← e]
    · next e =>
      rw [if_neg e] at h
      exact List.mem_cons_of_mem _ (ih h)

/-- Two canonical memories that read alike are one list: equal memories are equal data. -/
theorem ext_read {m m' : Memory} (h : m.wf) (h' : m'.wf) (hr : ∀ a, m.read a = m'.read a) : m = m' := by
  have sub : ∀ {p q : Memory}, p.wf → (∀ a, p.read a = q.read a) → ∀ c ∈ p, c ∈ q := fun hp e c hc => by
    have hv := read_of_mem hp hc
    have := mem_of_read (m := _) (a := c.1) (by rw [← e, hv]; exact (hp.2 c hc).2)
    rwa [← e, hv] at this
  have nd : ∀ {p : Memory}, p.wf → p.Nodup := fun hp => hp.1.imp fun hlt e => absurd (congrArg Prod.fst e) hlt.ne
  have perm : m.Perm m' := (List.perm_ext_iff_of_nodup (nd h) (nd h')).mpr fun c =>
    ⟨sub h hr c, sub h' (fun a => (hr a).symm) c⟩
  exact perm.eq_of_pairwise (fun a b _ _ h1 h2 => absurd h1 h2.not_gt) h.1 h'.1

end Sys2Proof.Machine.Memory
end

