-- ==== Sys2Proof/Laws/State.lean ====
section
/-!
SUPPORT. One lemma per field per update of the state, so that no later proof unfolds a record update.
-/

namespace Sys2Proof.Machine.State

variable (s : State)

/-! ### setReg -/

@[simp] theorem setReg_index (i : Nibble) (v : Byte) : (s.setReg i v).index = s.index := rfl
@[simp] theorem setReg_pc (i : Nibble) (v : Byte) : (s.setReg i v).pc = s.pc := rfl
@[simp] theorem setReg_sp (i : Nibble) (v : Byte) : (s.setReg i v).sp = s.sp := rfl
@[simp] theorem setReg_stack (i : Nibble) (v : Byte) : (s.setReg i v).stack = s.stack := rfl
@[simp] theorem setReg_mem (i : Nibble) (v : Byte) : (s.setReg i v).mem = s.mem := rfl
@[simp] theorem setReg_status (i : Nibble) (v : Byte) : (s.setReg i v).status = s.status := rfl
@[simp] theorem setReg_out (i : Nibble) (v : Byte) : (s.setReg i v).out = s.out := rfl
@[simp] theorem setReg_effAddr (i : Nibble) (v : Byte) (k : Nat) : (s.setReg i v).effAddr k = s.effAddr k := rfl

/-! ### setFlag -/

@[simp] theorem setFlag_index (v : Byte) : (s.setFlag v).index = s.index := rfl
@[simp] theorem setFlag_pc (v : Byte) : (s.setFlag v).pc = s.pc := rfl
@[simp] theorem setFlag_sp (v : Byte) : (s.setFlag v).sp = s.sp := rfl
@[simp] theorem setFlag_stack (v : Byte) : (s.setFlag v).stack = s.stack := rfl
@[simp] theorem setFlag_mem (v : Byte) : (s.setFlag v).mem = s.mem := rfl
@[simp] theorem setFlag_status (v : Byte) : (s.setFlag v).status = s.status := rfl
@[simp] theorem setFlag_out (v : Byte) : (s.setFlag v).out = s.out := rfl
@[simp] theorem setFlag_effAddr (v : Byte) (k : Nat) : (s.setFlag v).effAddr k = s.effAddr k := rfl

/-! ### setPc -/

@[simp] theorem setPc_regs (t : Word) : (s.setPc t).regs = s.regs := rfl
@[simp] theorem setPc_index (t : Word) : (s.setPc t).index = s.index := rfl
@[simp] theorem setPc_pc (t : Word) : (s.setPc t).pc = t := rfl
@[simp] theorem setPc_sp (t : Word) : (s.setPc t).sp = s.sp := rfl
@[simp] theorem setPc_stack (t : Word) : (s.setPc t).stack = s.stack := rfl
@[simp] theorem setPc_mem (t : Word) : (s.setPc t).mem = s.mem := rfl
@[simp] theorem setPc_status (t : Word) : (s.setPc t).status = s.status := rfl
@[simp] theorem setPc_out (t : Word) : (s.setPc t).out = s.out := rfl
@[simp] theorem setPc_reg (t : Word) (j : Nibble) : (s.setPc t).reg j = s.reg j := rfl
@[simp] theorem setPc_effAddr (t : Word) (k : Nat) : (s.setPc t).effAddr k = s.effAddr k := rfl

/-! ### setIndex -/

@[simp] theorem setIndex_regs (t : Word) : (s.setIndex t).regs = s.regs := rfl
@[simp] theorem setIndex_index (t : Word) : (s.setIndex t).index = t := rfl
@[simp] theorem setIndex_pc (t : Word) : (s.setIndex t).pc = s.pc := rfl
@[simp] theorem setIndex_sp (t : Word) : (s.setIndex t).sp = s.sp := rfl
@[simp] theorem setIndex_stack (t : Word) : (s.setIndex t).stack = s.stack := rfl
@[simp] theorem setIndex_mem (t : Word) : (s.setIndex t).mem = s.mem := rfl
@[simp] theorem setIndex_status (t : Word) : (s.setIndex t).status = s.status := rfl
@[simp] theorem setIndex_out (t : Word) : (s.setIndex t).out = s.out := rfl
@[simp] theorem setIndex_reg (t : Word) (j : Nibble) : (s.setIndex t).reg j = s.reg j := rfl

/-! ### emit -/

@[simp] theorem emit_regs (e : Event) : (s.emit e).regs = s.regs := rfl
@[simp] theorem emit_index (e : Event) : (s.emit e).index = s.index := rfl
@[simp] theorem emit_pc (e : Event) : (s.emit e).pc = s.pc := rfl
@[simp] theorem emit_sp (e : Event) : (s.emit e).sp = s.sp := rfl
@[simp] theorem emit_stack (e : Event) : (s.emit e).stack = s.stack := rfl
@[simp] theorem emit_mem (e : Event) : (s.emit e).mem = s.mem := rfl
@[simp] theorem emit_status (e : Event) : (s.emit e).status = s.status := rfl
@[simp] theorem emit_out (e : Event) : (s.emit e).out = s.out ++ [e] := rfl
@[simp] theorem emit_reg (e : Event) (j : Nibble) : (s.emit e).reg j = s.reg j := rfl
@[simp] theorem emit_effAddr (e : Event) (k : Nat) : (s.emit e).effAddr k = s.effAddr k := rfl

/-! ### raise -/

@[simp] theorem raise_regs (r : Raise) : (s.raise r).regs = s.regs := rfl
@[simp] theorem raise_index (r : Raise) : (s.raise r).index = s.index := rfl
@[simp] theorem raise_pc (r : Raise) : (s.raise r).pc = s.pc := rfl
@[simp] theorem raise_sp (r : Raise) : (s.raise r).sp = s.sp := rfl
@[simp] theorem raise_stack (r : Raise) : (s.raise r).stack = s.stack := rfl
@[simp] theorem raise_mem (r : Raise) : (s.raise r).mem = s.mem := rfl
@[simp] theorem raise_status (r : Raise) : (s.raise r).status = .faulted r.cause := rfl
@[simp] theorem raise_out (r : Raise) : (s.raise r).out = s.out := rfl
@[simp] theorem raise_reg (r : Raise) (j : Nibble) : (s.raise r).reg j = s.reg j := rfl
@[simp] theorem raise_effAddr (r : Raise) (k : Nat) : (s.raise r).effAddr k = s.effAddr k := rfl

/-! ### fetched -/

@[simp] theorem fetched_regs (w : Word) : (s.fetched w).regs = s.regs := rfl
@[simp] theorem fetched_index (w : Word) : (s.fetched w).index = s.index := rfl
@[simp] theorem fetched_pc (w : Word) : (s.fetched w).pc = s.pc + 2#16 := rfl
@[simp] theorem fetched_sp (w : Word) : (s.fetched w).sp = s.sp := rfl
@[simp] theorem fetched_stack (w : Word) : (s.fetched w).stack = s.stack := rfl
@[simp] theorem fetched_mem (w : Word) : (s.fetched w).mem = s.mem := rfl
@[simp] theorem fetched_status (w : Word) : (s.fetched w).status = s.status := rfl
@[simp] theorem fetched_out (w : Word) : (s.fetched w).out = s.out ++ [.trace w] := rfl
@[simp] theorem fetched_reg (w : Word) (j : Nibble) : (s.fetched w).reg j = s.reg j := rfl
@[simp] theorem fetched_effAddr (w : Word) (k : Nat) : (s.fetched w).effAddr k = s.effAddr k := rfl

/-! ### setRegThenFlag -/

@[simp] theorem setRegThenFlag_index (x : Nibble) (r f : Byte) : (s.setRegThenFlag x r f).index = s.index := rfl
@[simp] theorem setRegThenFlag_pc (x : Nibble) (r f : Byte) : (s.setRegThenFlag x r f).pc = s.pc := rfl
@[simp] theorem setRegThenFlag_sp (x : Nibble) (r f : Byte) : (s.setRegThenFlag x r f).sp = s.sp := rfl
@[simp] theorem setRegThenFlag_stack (x : Nibble) (r f : Byte) : (s.setRegThenFlag x r f).stack = s.stack := rfl
@[simp] theorem setRegThenFlag_mem (x : Nibble) (r f : Byte) : (s.setRegThenFlag x r f).mem = s.mem := rfl
@[simp] theorem setRegThenFlag_status (x : Nibble) (r f : Byte) : (s.setRegThenFlag x r f).status = s.status := rfl
@[simp] theorem setRegThenFlag_out (x : Nibble) (r f : Byte) : (s.setRegThenFlag x r f).out = s.out := rfl
@[simp] theorem setRegThenFlag_effAddr (x : Nibble) (r f : Byte) (k : Nat) : (s.setRegThenFlag x r f).effAddr k = s.effAddr k := rfl

/-! ### setFlagThenShift -/

@[simp] theorem setFlagThenShift_index (x : Nibble) (f : Byte) (g : Byte → Byte) : (s.setFlagThenShift x f g).index = s.index := rfl
@[simp] theorem setFlagThenShift_pc (x : Nibble) (f : Byte) (g : Byte → Byte) : (s.setFlagThenShift x f g).pc = s.pc := rfl
@[simp] theorem setFlagThenShift_sp (x : Nibble) (f : Byte) (g : Byte → Byte) : (s.setFlagThenShift x f g).sp = s.sp := rfl
@[simp] theorem setFlagThenShift_stack (x : Nibble) (f : Byte) (g : Byte → Byte) : (s.setFlagThenShift x f g).stack = s.stack := rfl
@[simp] theorem setFlagThenShift_mem (x : Nibble) (f : Byte) (g : Byte → Byte) : (s.setFlagThenShift x f g).mem = s.mem := rfl
@[simp] theorem setFlagThenShift_status (x : Nibble) (f : Byte) (g : Byte → Byte) : (s.setFlagThenShift x f g).status = s.status := rfl
@[simp] theorem setFlagThenShift_out (x : Nibble) (f : Byte) (g : Byte → Byte) : (s.setFlagThenShift x f g).out = s.out := rfl
@[simp] theorem setFlagThenShift_effAddr (x : Nibble) (f : Byte) (g : Byte → Byte) (k : Nat) : (s.setFlagThenShift x f g).effAddr k = s.effAddr k := rfl

/-! ### skipIf -/

@[simp] theorem skipIf_regs (c : Bool) : (s.skipIf c).regs = s.regs := by cases c <;> rfl
@[simp] theorem skipIf_index (c : Bool) : (s.skipIf c).index = s.index := by cases c <;> rfl
theorem skipIf_pc (c : Bool) : (s.skipIf c).pc = if c then s.pc + 2#16 else s.pc := by cases c <;> rfl
@[simp] theorem skipIf_sp (c : Bool) : (s.skipIf c).sp = s.sp := by cases c <;> rfl
@[simp] theorem skipIf_stack (c : Bool) : (s.skipIf c).stack = s.stack := by cases c <;> rfl
@[simp] theorem skipIf_mem (c : Bool) : (s.skipIf c).mem = s.mem := by cases c <;> rfl
@[simp] theorem skipIf_status (c : Bool) : (s.skipIf c).status = s.status := by cases c <;> rfl
@[simp] theorem skipIf_out (c : Bool) : (s.skipIf c).out = s.out := by cases c <;> rfl
@[simp] theorem skipIf_reg (c : Bool) (j : Nibble) : (s.skipIf c).reg j = s.reg j := by cases c <;> rfl

/-! ### Registers -/

theorem reg_setReg (i j : Nibble) (v : Byte) : (s.setReg i v).reg j = if j = i then v else s.reg j := by
  simp only [reg, setReg, Vector.getElem_set, BitVec.toNat_inj, eq_comm (a := i)]

@[simp] theorem reg_setReg_self (i : Nibble) (v : Byte) : (s.setReg i v).reg i = v := by simp [reg_setReg]

theorem reg_setReg_ne {i j : Nibble} (v : Byte) (h : j ≠ i) : (s.setReg i v).reg j = s.reg j := by simp [reg_setReg, h]

theorem reg_setFlag (j : Nibble) (v : Byte) : (s.setFlag v).reg j = if j = 15#4 then v else s.reg j :=
  s.reg_setReg Config.flagReg j v

/-- The result and then the flag: the flag survives in register 15 (R146, R147, R149). -/
theorem reg_setRegThenFlag (x j : Nibble) (r f : Byte) :
    (s.setRegThenFlag x r f).reg j = if j = 15#4 then f else if j = x then r else s.reg j := by
  simp [setRegThenFlag, reg_setFlag, reg_setReg]

/-- The flag and then the shift: with `x` = 15 the shifted value is the flag itself (R148, R150). -/
theorem reg_setFlagThenShift (x j : Nibble) (f : Byte) (g : Byte → Byte) :
    (s.setFlagThenShift x f g).reg j =
      if j = x then g (if x = 15#4 then f else s.reg x) else if j = 15#4 then f else s.reg j := by
  simp [setFlagThenShift, reg_setFlag, reg_setReg]

/-- Two states with the same registers, read one by one, have equal register files. -/
theorem regs_ext {s t : State} (h : ∀ i, t.reg i = s.reg i) : t.regs = s.regs := by
  refine Vector.ext fun i hi => ?_
  have := h (BitVec.ofNat 4 i)
  simpa [reg, Nat.mod_eq_of_lt hi] using this

end Sys2Proof.Machine.State
end

