-- ==== Sys2Proof/Laws/Ops.lean ====
section
/-!
SUPPORT. For each shared operation, one lemma that says once everything it can do.
-/

namespace Sys2Proof.Machine

/-! ### The end of a handler -/

@[simp] theorem settle_ok (s t : State) : settle s (.ok t) = .next t := rfl

@[simp] theorem settle_error (s : State) (r : Raise) : settle s (.error r) = .next (s.raise r) := rfl

/-- A handler that settles always answers a next state: what it computed, or its start with the cause in `status`. -/
theorem settle_next {s t : State} {r : Except Raise State} (h : settle s r = .next t) :
    r = .ok t ∨ ∃ e, r = .error e ∧ t = s.raise e := by
  cases r <;> simp_all [settle, eq_comm]

/-! ### Accesses -/

theorem memRead_eq (s : State) {a : Nat} (h : a < 4096) : s.memRead a = .ok (s.mem.read a) :=
  if_neg (by simpa [Config.memSize] using h)

theorem memRead_error (s : State) {a : Nat} (h : 4096 ≤ a) : s.memRead a = .error (.memoryOutOfBounds a) := if_pos h

theorem memWrite_eq (s : State) {a : Nat} (v : Byte) (h : a < 4096) :
    s.memWrite a v = .ok { s with mem := s.mem.write a v } :=
  if_neg (by simpa [Config.memSize] using h)

theorem memWrite_error (s : State) {a : Nat} (v : Byte) (h : 4096 ≤ a) :
    s.memWrite a v = .error (.memoryOutOfBounds a) := if_pos h

theorem checkRange_ok (s : State) {k : Nat} (h : s.index.toNat + k ≤ 4095) : s.checkRange k = .ok () :=
  if_neg (by simp only [Config.memSize, State.effAddr]; omega)

/-- Out of range, the recorded address is the lowest of the range that exceeds 4095 (R57). -/
theorem checkRange_error (s : State) {k : Nat} (h : 4095 < s.index.toNat + k) :
    s.checkRange k = .error (.memoryOutOfBounds (max s.index.toNat 4096)) := if_pos h

theorem fetchWord_ok (s : State) {a : Nat} (h : a < 4095) :
    s.fetchWord a = .ok (fromBytes (s.mem.read a) (s.mem.read (a + 1))) :=
  if_neg (by simp only [Config.memSize]; omega)

theorem fetchWord_error (s : State) {a : Nat} (h : 4095 ≤ a) : s.fetchWord a = .error (.fetchOutOfBounds a) := if_pos h

/-! ### The range `0..=x` -/

@[simp] theorem mem_upTo {x i : Nibble} : i ∈ upTo x ↔ i.toNat ≤ x.toNat := by
  simp only [upTo, List.mem_map, List.mem_range]
  constructor
  · rintro ⟨k, hk, rfl⟩
    have : k % 2 ^ 4 ≤ k := Nat.mod_le _ _
    simp only [BitVec.toNat_ofNat]; omega
  · exact fun h => ⟨i.toNat, by omega, by simp⟩

@[simp] theorem length_upTo (x : Nibble) : (upTo x).length = x.toNat + 1 := by simp [upTo]

theorem getElem_upTo (x : Nibble) (k : Nat) (h : k < (upTo x).length) : (upTo x)[k] = BitVec.ofNat 4 k := by simp [upTo]

theorem nodup_upTo (x : Nibble) : (upTo x).Nodup := by
  refine List.Nodup.map_on (fun a ha b hb e => ?_) List.nodup_range
  have hx := x.isLt
  simp only [List.mem_range] at ha hb
  have := congrArg BitVec.toNat e
  simp only [BitVec.toNat_ofNat] at this
  omega

/-! ### Blocks -/

theorem storeList (s : State) : ∀ (l : List Nibble) (t : State), (∀ i ∈ l, s.index.toNat + i.toNat ≤ 4095) →
    l.foldlM (fun t i => t.memWrite (s.effAddr i.toNat) (s.reg i)) t =
      Except.ok { t with mem := l.foldl (fun m i => m.write (s.effAddr i.toNat) (s.reg i)) t.mem }
  | [], _, _ => rfl
  | i :: l, t, h => by
    have hi : s.effAddr i.toNat < 4096 := by
      have := h i List.mem_cons_self
      simp only [State.effAddr]; omega
    rw [List.foldlM_cons, memWrite_eq t _ hi]
    exact storeList s l _ fun j hj => h j (List.mem_cons_of_mem _ hj)

theorem read_storeList (s : State) (l : List Nibble) (m : Memory) (a : Nat) :
    (l.foldl (fun m i => m.write (s.effAddr i.toNat) (s.reg i)) m).read a =
      if ∃ i ∈ l, s.effAddr i.toNat = a then s.reg (BitVec.ofNat 4 (a - s.index.toNat)) else m.read a := by
  induction l generalizing m with
  | nil => simp
  | cons i l ih =>
    rw [List.foldl_cons, ih, Memory.read_write]
    by_cases hl : ∃ j ∈ l, s.effAddr j.toNat = a
    · have hc : ∃ j ∈ i :: l, s.effAddr j.toNat = a := hl.imp fun j h => ⟨List.mem_cons_of_mem _ h.1, h.2⟩
      rw [if_pos hl, if_pos hc]
    · rw [if_neg hl]
      by_cases hi : s.effAddr i.toNat = a
      · have hk : a - s.index.toNat = i.toNat := by simp only [State.effAddr] at hi; omega
        rw [if_pos hi, if_pos ⟨i, List.mem_cons_self, hi⟩, hk]
        simp
      · have hc : ¬ ∃ j ∈ i :: l, s.effAddr j.toNat = a := by
          rintro ⟨j, hj, e⟩
          rcases List.mem_cons.mp hj with rfl | hj
          · exact hi e
          · exact hl ⟨j, hj, e⟩
        rw [if_neg hi, if_neg hc]

theorem wf_storeList (s : State) (l : List Nibble) (m : Memory) (h : ∀ i ∈ l, s.index.toNat + i.toNat ≤ 4095) (hm : m.wf) :
    (l.foldl (fun m i => m.write (s.effAddr i.toNat) (s.reg i)) m).wf := by
  induction l generalizing m with
  | nil => exact hm
  | cons i l ih =>
    have hi := h i List.mem_cons_self
    exact ih _ (fun j hj => h j (List.mem_cons_of_mem _ hj))
      (Memory.wf_write _ _ (by simp only [Config.memSize, State.effAddr]; omega) hm)

/-- In range, `storeRegs` writes memory only: byte `index + i` is `reg[i]` for `i` up to `x`, every other byte is as before, and the
canonical form is kept. -/
theorem storeRegs_spec (s : State) (x : Nibble) (h : s.index.toNat + x.toNat ≤ 4095) :
    ∃ m : Memory, s.storeRegs x = .ok { s with mem := m } ∧ (s.mem.wf → m.wf) ∧
      ∀ a, m.read a = if s.index.toNat ≤ a ∧ a ≤ s.index.toNat + x.toNat
        then s.reg (BitVec.ofNat 4 (a - s.index.toNat)) else s.mem.read a := by
  have hl : ∀ i ∈ upTo x, s.index.toNat + i.toNat ≤ 4095 := fun i hi => by
    have := mem_upTo.mp hi; omega
  refine ⟨_, storeList s _ s hl, wf_storeList s _ _ hl, fun a => ?_⟩
  rw [read_storeList]
  refine if_congr ⟨?_, fun ⟨h1, h2⟩ => ⟨BitVec.ofNat 4 (a - s.index.toNat), ?_, ?_⟩⟩ rfl rfl
  · rintro ⟨i, hi, e⟩
    have := mem_upTo.mp hi
    simp only [State.effAddr] at e
    omega
  · have := x.isLt
    rw [mem_upTo, BitVec.toNat_ofNat]
    omega
  · have := x.isLt
    simp only [State.effAddr, BitVec.toNat_ofNat]
    omega

theorem loadList (s : State) : ∀ (l : List Nibble) (t : State), (∀ i ∈ l, s.index.toNat + i.toNat ≤ 4095) →
    l.foldlM (fun t i => do return t.setReg i (← s.memRead (s.effAddr i.toNat))) t =
      Except.ok (ε := Raise) (l.foldl (fun t i => t.setReg i (s.mem.read (s.effAddr i.toNat))) t)
  | [], _, _ => rfl
  | i :: l, t, h => by
    have hi : s.effAddr i.toNat < 4096 := by
      have := h i List.mem_cons_self
      simp only [State.effAddr]; omega
    rw [List.foldlM_cons, memRead_eq s hi]
    exact loadList s l _ fun j hj => h j (List.mem_cons_of_mem _ hj)

theorem loadList_frame (s : State) (l : List Nibble) (t : State) :
    ∃ rs, l.foldl (fun t i => t.setReg i (s.mem.read (s.effAddr i.toNat))) t = { t with regs := rs } := by
  induction l generalizing t with
  | nil => exact ⟨t.regs, rfl⟩
  | cons i l ih =>
    obtain ⟨rs, h⟩ := ih (t.setReg i (s.mem.read (s.effAddr i.toNat)))
    exact ⟨rs, h⟩

theorem reg_loadList (s : State) (l : List Nibble) (t : State) (j : Nibble) :
    (l.foldl (fun t i => t.setReg i (s.mem.read (s.effAddr i.toNat))) t).reg j =
      if j ∈ l then s.mem.read (s.effAddr j.toNat) else t.reg j := by
  induction l generalizing t with
  | nil => simp
  | cons i l ih =>
    rw [List.foldl_cons, ih, State.reg_setReg]
    by_cases hj : j ∈ l
    · simp [hj]
    · by_cases e : j = i <;> simp [hj, e]

/-- In range, `loadRegs` writes registers 0 to `x` only, each from its byte of memory. -/
theorem loadRegs_spec (s : State) (x : Nibble) (h : s.index.toNat + x.toNat ≤ 4095) :
    ∃ rs, s.loadRegs x = .ok { s with regs := rs } ∧
      ∀ j : Nibble, ({ s with regs := rs } : State).reg j =
        if j.toNat ≤ x.toNat then s.mem.read (s.index.toNat + j.toNat) else s.reg j := by
  have hl : ∀ i ∈ upTo x, s.index.toNat + i.toNat ≤ 4095 := fun i hi => by
    have := mem_upTo.mp hi; omega
  obtain ⟨rs, hrs⟩ := loadList_frame s (upTo x) s
  refine ⟨rs, (loadList s _ s hl).trans (congrArg _ hrs), fun j => ?_⟩
  rw [← hrs, reg_loadList]
  simp [State.effAddr]

theorem readList (s : State) : ∀ l : List Nibble, (∀ i ∈ l, s.index.toNat + i.toNat ≤ 4095) →
    l.mapM (fun i => s.memRead (s.effAddr i.toNat)) =
      Except.ok (ε := Raise) (l.map fun i => s.mem.read (s.index.toNat + i.toNat))
  | [], _ => rfl
  | i :: l, h => by
    have hi : s.effAddr i.toNat < 4096 := by
      have := h i List.mem_cons_self
      simp only [State.effAddr]; omega
    rw [List.mapM_cons, memRead_eq s hi, readList s l fun j hj => h j (List.mem_cons_of_mem _ hj)]
    rfl

/-- In range, `readBlock` answers the `x + 1` bytes from `index`, lowest address first. -/
theorem readBlock_spec (s : State) (x : Nibble) (h : s.index.toNat + x.toNat ≤ 4095) :
    s.readBlock x = .ok ((upTo x).map fun i => s.mem.read (s.index.toNat + i.toNat)) :=
  readList s _ fun i hi => by have := mem_upTo.mp hi; omega

/-- In range, `storeDigits` writes the three digit bytes and nothing else, and keeps the canonical form. -/
theorem storeDigits_spec (s : State) (v : Byte) (h : s.index.toNat + 2 ≤ 4095) :
    ∃ m : Memory, s.storeDigits v = .ok { s with mem := m } ∧ (s.mem.wf → m.wf) ∧
      ∀ a, m.read a =
        if a = s.index.toNat then (bcdDigits v).1
        else if a = s.index.toNat + 1 then (bcdDigits v).2.1
        else if a = s.index.toNat + 2 then (bcdDigits v).2.2
        else s.mem.read a := by
  refine ⟨((s.mem.write (s.index.toNat + 0) (bcdDigits v).1).write (s.index.toNat + 1) (bcdDigits v).2.1).write
    (s.index.toNat + 2) (bcdDigits v).2.2, ?_, fun hm => ?_, fun a => ?_⟩
  · unfold State.storeDigits
    simp only [State.effAddr]
    rw [memWrite_eq s _ (by omega)]
    simp only [bind, Except.bind]
    rw [memWrite_eq _ _ (by omega)]
    exact memWrite_eq _ _ (by omega)
  · refine Memory.wf_write _ _ ?_ (Memory.wf_write _ _ ?_ (Memory.wf_write _ _ ?_ hm)) <;>
      simp only [Config.memSize] <;> omega
  · simp only [Memory.read_write, Nat.add_zero]
    split_ifs <;> first | rfl | omega

/-! ### The return stack -/

theorem slot?_of_le (s : State) {j : Nat} (h : j ≤ 15) : s.slot? j = some (s.stack[j]'(by omega)) :=
  Vector.getElem?_eq_getElem (by omega)

theorem slot?_of_gt (s : State) {j : Nat} (h : 15 < j) : s.slot? j = none :=
  Vector.getElem?_eq_none (by omega)

theorem setSlot?_of_le (s : State) {j : Nat} (v : Word) (h : j ≤ 15) :
    s.setSlot? j v = some { s with stack := s.stack.set j v (by omega) } := dif_pos (by omega)

theorem setSlot?_of_gt (s : State) {j : Nat} (v : Word) (h : 15 < j) : s.setSlot? j v = none := dif_neg (by omega)

/-! ### The cycle -/

/-- What a cycle can do: it answers a next state only from Running, and then either the fetch was out of bounds and only `status`
changed, or the decoded instruction ran in the fetched state. -/
theorem step_cases {s t : State} (h : step s = .next t) :
    s.status = .running ∧
      ((4095 ≤ s.pc.toNat ∧ t = s.raise (.fetchOutOfBounds s.pc.toNat)) ∨
        ∃ w, s.pc.toNat < 4095 ∧ w = fromBytes (s.mem.read s.pc.toNat) (s.mem.read (s.pc.toNat + 1)) ∧
          exec (decodeWord w) (s.fetched w) = .next t) := by
  unfold step at h
  cases hst : s.status with
  | halted e => simp [hst] at h
  | faulted c => simp [hst] at h
  | running =>
    refine ⟨rfl, ?_⟩
    rw [hst] at h
    by_cases hp : 4095 ≤ s.pc.toNat
    · rw [fetchWord_error s hp] at h
      exact .inl ⟨hp, (Host.Outcome.next.inj h).symm⟩
    · rw [fetchWord_ok s (by omega)] at h
      exact .inr ⟨_, by omega, rfl, h⟩

/-- A running cycle whose fetch is in bounds runs the decoded instruction in the fetched state. -/
theorem step_of_fetch {s : State} (hr : s.status = .running) (hp : s.pc.toNat < 4095) :
    step s = exec (decodeWord (fromBytes (s.mem.read s.pc.toNat) (s.mem.read (s.pc.toNat + 1))))
      (s.fetched (fromBytes (s.mem.read s.pc.toNat) (s.mem.read (s.pc.toNat + 1)))) := by
  simp only [step, hr, fetchWord_ok s hp]

end Sys2Proof.Machine
end

