-- ==== Sys2Proof/Laws/Exec.lean ====
section
/-!
SUPPORT. For each meaning that can raise or stop, one lemma with its cases and the condition of each.
-/

namespace Sys2Proof.Machine

/-- A block instruction with its range in bounds is its body; out of bounds it raises with the lowest offending address. -/
theorem settle_checkRange (s : State) (k : Nat) (body : Except Raise State) :
    (4095 < s.index.toNat + k ∧
      (settle s do s.checkRange k; body) = .next (s.raise (.memoryOutOfBounds (max s.index.toNat 4096)))) ∨
    (s.index.toNat + k ≤ 4095 ∧ (settle s do s.checkRange k; body) = settle s body) := by
  by_cases h : s.index.toNat + k ≤ 4095
  · exact .inr ⟨h, by rw [checkRange_ok s h]; rfl⟩
  · exact .inl ⟨by omega, by rw [checkRange_error s (by omega)]; rfl⟩

/-- store-block out of range raises; in range it changes memory as `storeRegs` does. -/
theorem execStoreBlock_cases (x : Nibble) (s : State) :
    (4095 < s.index.toNat + x.toNat ∧
      execStoreBlock x s = .next (s.raise (.memoryOutOfBounds (max s.index.toNat 4096)))) ∨
    (s.index.toNat + x.toNat ≤ 4095 ∧ ∃ m : Memory, execStoreBlock x s = .next { s with mem := m } ∧ (s.mem.wf → m.wf) ∧
      ∀ a, m.read a = if s.index.toNat ≤ a ∧ a ≤ s.index.toNat + x.toNat
        then s.reg (BitVec.ofNat 4 (a - s.index.toNat)) else s.mem.read a) := by
  refine (settle_checkRange s x.toNat (s.storeRegs x)).imp_right fun ⟨h, e⟩ => ⟨h, ?_⟩
  obtain ⟨m, hm, hw, hr⟩ := storeRegs_spec s x h
  exact ⟨m, by rw [execStoreBlock, e, hm]; rfl, hw, hr⟩

/-- bcd out of range raises; in range it changes memory as `storeDigits` does. -/
theorem execBcd_cases (x : Nibble) (s : State) :
    (4095 < s.index.toNat + 2 ∧ execBcd x s = .next (s.raise (.memoryOutOfBounds (max s.index.toNat 4096)))) ∨
    (s.index.toNat + 2 ≤ 4095 ∧ ∃ m : Memory, execBcd x s = .next { s with mem := m } ∧ (s.mem.wf → m.wf) ∧
      ∀ a, m.read a =
        if a = s.index.toNat then (bcdDigits (s.reg x)).1
        else if a = s.index.toNat + 1 then (bcdDigits (s.reg x)).2.1
        else if a = s.index.toNat + 2 then (bcdDigits (s.reg x)).2.2
        else s.mem.read a) := by
  refine (settle_checkRange s 2 (s.storeDigits (s.reg x))).imp_right fun ⟨h, e⟩ => ⟨h, ?_⟩
  obtain ⟨m, hm, hw, hr⟩ := storeDigits_spec s (s.reg x) h
  exact ⟨m, by rw [execBcd, e, hm]; rfl, hw, hr⟩

/-- load-block out of range raises; in range it changes registers 0 to `x`. -/
theorem execLoadBlock_cases (x : Nibble) (s : State) :
    (4095 < s.index.toNat + x.toNat ∧
      execLoadBlock x s = .next (s.raise (.memoryOutOfBounds (max s.index.toNat 4096)))) ∨
    (s.index.toNat + x.toNat ≤ 4095 ∧ ∃ rs, execLoadBlock x s = .next { s with regs := rs } ∧
      ∀ j : Nibble, ({ s with regs := rs } : State).reg j =
        if j.toNat ≤ x.toNat then s.mem.read (s.index.toNat + j.toNat) else s.reg j) := by
  refine (settle_checkRange s x.toNat (s.loadRegs x)).imp_right fun ⟨h, e⟩ => ⟨h, ?_⟩
  obtain ⟨rs, hm, hr⟩ := loadRegs_spec s x h
  exact ⟨rs, by rw [execLoadBlock, e, hm]; rfl, hr⟩

/-- print-mem out of range raises; in range it emits its bytes. -/
theorem execPrintMem_cases (x : Nibble) (s : State) :
    (4095 < s.index.toNat + x.toNat ∧
      execPrintMem x s = .next (s.raise (.memoryOutOfBounds (max s.index.toNat 4096)))) ∨
    (s.index.toNat + x.toNat ≤ 4095 ∧
      execPrintMem x s = .next (s.emit (.printMem ((upTo x).map fun i => s.mem.read (s.index.toNat + i.toNat))))) := by
  refine (settle_checkRange s x.toNat (do let bs ← s.readBlock x; return s.emit (.printMem bs))).imp_right
    fun ⟨h, e⟩ => ⟨h, ?_⟩
  rw [execPrintMem, e, readBlock_spec s x h]
  rfl

/-- add-index above 65535 raises; else it changes `index`. -/
theorem execAddIndex_cases (x : Nibble) (s : State) :
    (65535 < s.index.toNat + (s.reg x).toNat ∧ execAddIndex x s = .next (s.raise .indexOverflow)) ∨
    (s.index.toNat + (s.reg x).toNat ≤ 65535 ∧ execAddIndex x s = .next (s.setIndex (s.index + zext8 (s.reg x)))) := by
  by_cases h : 65535 < s.index.toNat + (s.reg x).toNat
  · exact .inl ⟨h, by rw [execAddIndex, if_pos h, settle_error]⟩
  · exact .inr ⟨by omega, by rw [execAddIndex, if_neg h, settle_ok]⟩

/-- return raises, pops, or stops where `sp` names no slot. -/
theorem execRet_cases (s : State) :
    (s.sp.toNat = 0 ∧ execRet s = .next (s.raise .stackUnderflow)) ∨
    (∃ h : 1 ≤ s.sp.toNat ∧ s.sp.toNat ≤ 15,
      execRet s = .next { s with pc := s.stack[s.sp.toNat]'(by omega), sp := s.sp - 1#8 }) ∨
    (15 < s.sp.toNat ∧ execRet s = .fault (.noStackSlot s.sp.toNat)) := by
  by_cases h0 : s.sp = 0#8
  · exact .inl ⟨by simp [h0], by simp [execRet, h0]⟩
  · by_cases h : s.sp.toNat ≤ 15
    · exact .inr (.inl ⟨⟨by bv_omega, h⟩, by simp [execRet, h0, slot?_of_le s h]⟩)
    · exact .inr (.inr ⟨by omega, by simp [execRet, h0, slot?_of_gt s (j := s.sp.toNat) (by omega)]⟩)

/-- call raises, pushes, or stops where `sp + 1` names no slot. -/
theorem execCall_cases (nnn : Addr12) (s : State) :
    (s.sp.toNat = 15 ∧ execCall nnn s = .next (s.raise .stackOverflow)) ∨
    (∃ h : s.sp.toNat ≤ 14, execCall nnn s =
      .next { s with stack := s.stack.set (s.sp.toNat + 1) s.pc (by omega), pc := zext12 nnn, sp := s.sp + 1#8 }) ∨
    (15 < s.sp.toNat ∧ execCall nnn s = .fault (.noStackSlot (s.sp.toNat + 1))) := by
  by_cases h0 : s.sp = 15#8
  · exact .inl ⟨by simp [h0], by simp [execCall, h0]⟩
  · by_cases h : s.sp.toNat ≤ 14
    · exact .inr (.inl ⟨h, by rw [execCall, if_neg h0, setSlot?_of_le s _ (by omega)]⟩)
    · have : 15 < s.sp.toNat := by bv_omega
      exact .inr (.inr ⟨this, by simp [execCall, h0, setSlot?_of_gt s (j := s.sp.toNat + 1) _ (by omega)]⟩)

end Sys2Proof.Machine
end

