-- ==== Sys2Proof/Laws/PerInstr.lean ====
section
/-!
SUPPORT. Per instruction: what the encoder writes is a word of the instruction's own row of the opcode table (R76, R79, R83).
-/

namespace Sys2Proof.Laws.EncodeMatchesRow

/-- The canonical word of a well-formed instruction matches the instruction's row. -/
def Statement (i : Instr) : Prop := i.wellFormed = true → (encode i &&& i.row.mask) = i.row.pat

theorem nnn_row (op : Nibble) (nnn : Addr12) : encodeNNN op nnn &&& 0xF000#16 = encodeXYN op 0 0 0 :=
  (and_mask_opcode _ _).mpr (fieldOpcode_encodeNNN op nnn)

theorem xkk_row (op x : Nibble) (kk : Byte) : encodeXKK op x kk &&& 0xF000#16 = encodeXYN op 0 0 0 :=
  (and_mask_opcode _ _).mpr (fieldOpcode_encodeXKK op x kk)

/-- A row that selects on `opcode` alone (R77). -/
theorem xy_row (op x y n : Nibble) : encodeXYN op x y n &&& 0xF000#16 = encodeXYN op 0 0 0 :=
  (and_mask_opcode _ _).mpr (fieldOpcode_encodeXYN op x y n)

/-- A row that selects on `opcode` and `n` (R77). -/
theorem xyn_row (op x y n : Nibble) : encodeXYN op x y n &&& 0xF00F#16 = encodeXYN op 0 0 n :=
  (and_mask_opcode_n _ _ _).mpr ⟨fieldOpcode_encodeXYN op x y n, fieldN_encodeXYN op x y n⟩

/-- An unrecognised word is well formed exactly when its row takes it. -/
theorem raw_row {pat w : Word} (h : subOpcodeIs pat w = true) : w &&& 0xF00F#16 = pat := by simpa [subOpcodeIs] using h

theorem ret : Statement .ret := fun _ => by decide
theorem jump (nnn : Addr12) : Statement (.jump nnn) := fun _ => nnn_row 0x1 nnn
theorem call (nnn : Addr12) : Statement (.call nnn) := fun _ => nnn_row 0x2 nnn
theorem skipEqImm (x : Nibble) (kk : Byte) : Statement (.skipEqImm x kk) := fun _ => xkk_row 0x3 x kk
theorem skipNeqImm (x : Nibble) (kk : Byte) : Statement (.skipNeqImm x kk) := fun _ => xkk_row 0x4 x kk
theorem skipEqReg (x y : Nibble) : Statement (.skipEqReg x y) := fun _ => xy_row 0x5 x y 0x0
theorem loadImm (x : Nibble) (kk : Byte) : Statement (.loadImm x kk) := fun _ => xkk_row 0x6 x kk
theorem addImm (x : Nibble) (kk : Byte) : Statement (.addImm x kk) := fun _ => xkk_row 0x7 x kk
theorem move (x y : Nibble) : Statement (.move x y) := fun _ => xyn_row 0x8 x y 0x0
theorem orReg (x y : Nibble) : Statement (.orReg x y) := fun _ => xyn_row 0x8 x y 0x1
theorem andReg (x y : Nibble) : Statement (.andReg x y) := fun _ => xyn_row 0x8 x y 0x2
theorem xorReg (x y : Nibble) : Statement (.xorReg x y) := fun _ => xyn_row 0x8 x y 0x3
theorem addReg (x y : Nibble) : Statement (.addReg x y) := fun _ => xyn_row 0x8 x y 0x4
theorem subReg (x y : Nibble) : Statement (.subReg x y) := fun _ => xyn_row 0x8 x y 0x5
theorem shiftRight (x : Nibble) : Statement (.shiftRight x) := fun _ => xyn_row 0x8 x 0x0 0x6
theorem subnReg (x y : Nibble) : Statement (.subnReg x y) := fun _ => xyn_row 0x8 x y 0x7
theorem unrecognised88 (w : Word) : Statement (.unrecognised88 w) := raw_row
theorem unrecognised89 (w : Word) : Statement (.unrecognised89 w) := raw_row
theorem unrecognised8A (w : Word) : Statement (.unrecognised8A w) := raw_row
theorem unrecognised8B (w : Word) : Statement (.unrecognised8B w) := raw_row
theorem unrecognised8C (w : Word) : Statement (.unrecognised8C w) := raw_row
theorem unrecognised8D (w : Word) : Statement (.unrecognised8D w) := raw_row
theorem shiftLeft (x : Nibble) : Statement (.shiftLeft x) := fun _ => xyn_row 0x8 x 0x0 0xE
theorem unrecognised8F (w : Word) : Statement (.unrecognised8F w) := raw_row
theorem skipNeqReg (x y : Nibble) : Statement (.skipNeqReg x y) := fun _ => xy_row 0x9 x y 0x0
theorem loadIndex (nnn : Addr12) : Statement (.loadIndex nnn) := fun _ => nnn_row 0xA nnn
theorem jumpOffset (nnn : Addr12) : Statement (.jumpOffset nnn) := fun _ => nnn_row 0xB nnn
theorem addIndex (x : Nibble) : Statement (.addIndex x) := fun _ => xy_row 0xC x 0x0 0x0
theorem bcd (x : Nibble) : Statement (.bcd x) := fun _ => xy_row 0xD x 0x0 0x0
theorem storeBlock (x : Nibble) : Statement (.storeBlock x) := fun _ => xy_row 0xE x 0x0 0x0
theorem loadBlock (x : Nibble) : Statement (.loadBlock x) := fun _ => xyn_row 0xF x 0x0 0x0
theorem printRegs (x : Nibble) : Statement (.printRegs x) := fun _ => xyn_row 0xF x 0x0 0x1
theorem printMem (x : Nibble) : Statement (.printMem x) := fun _ => xyn_row 0xF x 0x0 0x2
theorem unrecognisedF3 (w : Word) : Statement (.unrecognisedF3 w) := raw_row
theorem unrecognisedF4 (w : Word) : Statement (.unrecognisedF4 w) := raw_row
theorem unrecognisedF5 (w : Word) : Statement (.unrecognisedF5 w) := raw_row
theorem unrecognisedF6 (w : Word) : Statement (.unrecognisedF6 w) := raw_row
theorem unrecognisedF7 (w : Word) : Statement (.unrecognisedF7 w) := raw_row
theorem unrecognisedF8 (w : Word) : Statement (.unrecognisedF8 w) := raw_row
theorem unrecognisedF9 (w : Word) : Statement (.unrecognisedF9 w) := raw_row
theorem unrecognisedFA (w : Word) : Statement (.unrecognisedFA w) := raw_row
theorem unrecognisedFB (w : Word) : Statement (.unrecognisedFB w) := raw_row
theorem unrecognisedFC (w : Word) : Statement (.unrecognisedFC w) := raw_row
theorem unrecognisedFD (w : Word) : Statement (.unrecognisedFD w) := raw_row
theorem unrecognisedFE (w : Word) : Statement (.unrecognisedFE w) := raw_row
theorem halt : Statement .halt := fun _ => by decide

end Sys2Proof.Laws.EncodeMatchesRow
end

