-- ==== Sys2Proof/Tests/Slice0.lean ====
section
/-!
SUPPORT. Small checks of the model against words and vectors of the spec (`95_test_vectors.md`; the vector is named in each comment), and
for every statement with hypotheses a witness that meets them.
-/

namespace Sys2Proof.Tests

open Sys2Proof.Machine

/-! ### Small states -/

/-- Reset, with the registers and memory bytes of a vector's "Before" column. -/
def before (index : Word) (regs : List (Nibble × Byte)) (bytes : List Host.Cell) : State :=
  { regs.foldl (fun t r => t.setReg r.1 r.2) State.reset with
    index := index
    mem := bytes.foldl (fun m c => m.write c.1 c.2) [] }

/-- Reset with a return stack whose top slot holds `a`. -/
def stacked (pc : Word) (sp : Byte) (a : Word) : State :=
  { State.reset with pc := pc, sp := sp, stack := Vector.replicate 16 a }

/-- The state after one cycle of `w`, placed where `s` fetches. -/
def cycle (w : Word) (s : State) : Option State :=
  match step (s.withFetchWord 16 w.toNat) with
  | .next t => some t
  | _ => none

/-! ### Well-formedness: each check refuses a word of the neighbouring row -/

theorem test_ill_formed_8 :
    (Instr.unrecognised88 0x8007#16).wellFormed = false ∧ (Instr.unrecognised89 0x8128#16).wellFormed = false ∧
    (Instr.unrecognised8A 0x8009#16).wellFormed = false ∧ (Instr.unrecognised8B 0xF00B#16).wellFormed = false ∧
    (Instr.unrecognised8C 0x800B#16).wellFormed = false ∧ (Instr.unrecognised8D 0x800E#16).wellFormed = false ∧
    (Instr.unrecognised8F 0x800E#16).wellFormed = false := by decide

theorem test_ill_formed_F :
    (Instr.unrecognisedF3 0xF002#16).wellFormed = false ∧ (Instr.unrecognisedF4 0xF003#16).wellFormed = false ∧
    (Instr.unrecognisedF5 0xF004#16).wellFormed = false ∧ (Instr.unrecognisedF6 0xF115#16).wellFormed = false ∧
    (Instr.unrecognisedF7 0xF006#16).wellFormed = false ∧ (Instr.unrecognisedF8 0x8128#16).wellFormed = false ∧
    (Instr.unrecognisedF9 0xF118#16).wellFormed = false ∧ (Instr.unrecognisedFA 0xF129#16).wellFormed = false ∧
    (Instr.unrecognisedFB 0xE00B#16).wellFormed = false ∧ (Instr.unrecognisedFC 0xF00B#16).wellFormed = false ∧
    (Instr.unrecognisedFD 0xF00E#16).wellFormed = false ∧ (Instr.unrecognisedFE 0xF00F#16).wellFormed = false := by decide

/-! ### Decoding: one word for every constructor, bit by bit from the row of R76 or R79 -/

theorem test_decode_control :
    decodeWord 0b0000101010111100#16 = .ret ∧ decodeWord 0b0001001000000100#16 = .jump 0x204#12 ∧
    decodeWord 0b0010001000001110#16 = .call 0x20E#12 ∧ decodeWord 0b1011001000010100#16 = .jumpOffset 0x214#12 ∧
    decodeWord 0b0011111100000001#16 = .skipEqImm 15#4 1#8 ∧ decodeWord 0b0100001000010000#16 = .skipNeqImm 2#4 0x10#8 ∧
    decodeWord 0b0101001101000000#16 = .skipEqReg 3#4 4#4 ∧ decodeWord 0b1001001101000000#16 = .skipNeqReg 3#4 4#4 := by decide

theorem test_decode_alu :
    decodeWord 0b0110000100100010#16 = .loadImm 1#4 0x22#8 ∧ decodeWord 0b0111000111111111#16 = .addImm 1#4 0xFF#8 ∧
    decodeWord 0b1000111011110000#16 = .move 14#4 15#4 ∧ decodeWord 0b1000101000010001#16 = .orReg 10#4 1#4 ∧
    decodeWord 0b1000101000010010#16 = .andReg 10#4 1#4 ∧ decodeWord 0b1000101000010011#16 = .xorReg 10#4 1#4 ∧
    decodeWord 0b1000101010110100#16 = .addReg 10#4 11#4 ∧ decodeWord 0b1000101010110101#16 = .subReg 10#4 11#4 ∧
    decodeWord 0b1000001000000110#16 = .shiftRight 2#4 ∧ decodeWord 0b1000101010110111#16 = .subnReg 10#4 11#4 ∧
    decodeWord 0b1000001000001110#16 = .shiftLeft 2#4 := by decide

theorem test_decode_memory_output :
    decodeWord 0b1010011000000000#16 = .loadIndex 0x600#12 ∧ decodeWord 0b1100001100000000#16 = .addIndex 3#4 ∧
    decodeWord 0b1101010100000000#16 = .bcd 5#4 ∧ decodeWord 0b1110000100000000#16 = .storeBlock 1#4 ∧
    decodeWord 0b1111000110100000#16 = .loadBlock 1#4 ∧ decodeWord 0b1111001000000001#16 = .printRegs 2#4 ∧
    decodeWord 0b1111001000000010#16 = .printMem 2#4 ∧ decodeWord 0b1111111111111111#16 = .halt ∧
    decodeWord 0b1111000000001111#16 = .halt := by decide

/-- The words of table V8. -/
theorem test_decode_unrecognised :
    decodeWord 0x8128#16 = .unrecognised88 0x8128#16 ∧ decodeWord 0x8009#16 = .unrecognised89 0x8009#16 ∧
    decodeWord 0x800A#16 = .unrecognised8A 0x800A#16 ∧ decodeWord 0x800B#16 = .unrecognised8B 0x800B#16 ∧
    decodeWord 0x800C#16 = .unrecognised8C 0x800C#16 ∧ decodeWord 0x800D#16 = .unrecognised8D 0x800D#16 ∧
    decodeWord 0x8FFF#16 = .unrecognised8F 0x8FFF#16 ∧ decodeWord 0xF003#16 = .unrecognisedF3 0xF003#16 ∧
    decodeWord 0xF004#16 = .unrecognisedF4 0xF004#16 ∧ decodeWord 0xF115#16 = .unrecognisedF5 0xF115#16 ∧
    decodeWord 0xF006#16 = .unrecognisedF6 0xF006#16 ∧ decodeWord 0xF107#16 = .unrecognisedF7 0xF107#16 ∧
    decodeWord 0xF118#16 = .unrecognisedF8 0xF118#16 ∧ decodeWord 0xF129#16 = .unrecognisedF9 0xF129#16 ∧
    decodeWord 0xF10A#16 = .unrecognisedFA 0xF10A#16 ∧ decodeWord 0xF00B#16 = .unrecognisedFB 0xF00B#16 ∧
    decodeWord 0xF00C#16 = .unrecognisedFC 0xF00C#16 ∧ decodeWord 0xF00D#16 = .unrecognisedFD 0xF00D#16 ∧
    decodeWord 0xF11E#16 = .unrecognisedFE 0xF11E#16 := by decide

/-- Bytes in memory order (R72), and too few bytes. -/
theorem test_decode_bytes :
    decode [0x80#8, 0x14#8, 0xFF#8] = .ok (.addReg 0#4 1#4, [0xFF#8]) ∧ decode [0x80#8] = .error .fewerThanTwoBytes ∧
    decodeTableWord 16 0x8014 = some (.addReg 0#4 1#4) := by
  refine ⟨rfl, rfl, ?_⟩; decide

/-- Canonical encodings as R83 writes them. -/
theorem test_encode :
    encode .ret = 0x0000#16 ∧ encode (.skipEqReg 1#4 2#4) = 0x5120#16 ∧ encode (.loadImm 0#4 0x11#8) = 0x6011#16 ∧
    encode (.move 14#4 15#4) = 0x8EF0#16 ∧ encode (.shiftRight 2#4) = 0x8206#16 ∧ encode (.shiftLeft 0#4) = 0x800E#16 ∧
    encode (.jumpOffset 0x214#12) = 0xB214#16 ∧ encode (.addIndex 3#4) = 0xC300#16 ∧ encode (.printMem 2#4) = 0xF202#16 ∧
    encode .halt = 0xFFFF#16 := by decide

/-- The worked example of R101. -/
theorem test_fields :
    fieldOpcode 0xD5A3#16 = 0xD#4 ∧ fieldX 0xD5A3#16 = 5#4 ∧ fieldY 0xD5A3#16 = 0xA#4 ∧ fieldN 0xD5A3#16 = 3#4 ∧
    fieldKK 0xD5A3#16 = 0xA3#8 ∧ fieldNNN 0xD5A3#16 = 0x5A3#12 ∧ toBytes 0xD5A3#16 = (0xD5#8, 0xA3#8) := by decide

/-! ### Control transfer (table V2) -/

/-- V2.1. -/
theorem test_return : (cycle 0x0000#16 (stacked 0x0212#16 2#8 0x0206#16)).map (fun t => (t.pc, t.sp)) = some (0x0206#16, 1#8) := by
  decide

/-- V2.3, Scenario C. -/
theorem test_return_underflow : (cycle 0x0000#16 State.reset).map (fun t => (t.pc, t.status)) =
    some (0x0202#16, .faulted .stackUnderflow) := by decide

/-- V2.5. -/
theorem test_jump : (cycle 0x1204#16 (stacked 0x020A#16 0#8 0#16)).map (·.pc) = some 0x0204#16 := by decide

/-- V2.9. -/
theorem test_call : (cycle 0x220E#16 (stacked 0x0204#16 0#8 0#16)).map (fun t => (t.pc, t.sp, t.stack[1], t.stack[0])) =
    some (0x020E#16, 1#8, 0x0206#16, 0#16) := by decide

/-- V2.11. -/
theorem test_call_overflow : (cycle 0x2300#16 (stacked 0x0200#16 15#8 0x0222#16)).map (fun t => (t.pc, t.sp, t.status)) =
    some (0x0202#16, 15#8, .faulted .stackOverflow) := by decide

/-- V2.14. -/
theorem test_jump_offset : (cycle 0xBFFF#16 (before 0#16 [(0#4, 0xFF#8)] [])).map (·.pc) = some 0x10FE#16 := by decide

/-! ### Skips (table V3) -/

/-- V3.1 and V3.2, at 0200. -/
theorem test_skip_eq_imm : (cycle 0x3100#16 (before 0#16 [] [])).map (·.pc) = some 0x0204#16 ∧
    (cycle 0x3100#16 (before 0#16 [(1#4, 9#8)] [])).map (·.pc) = some 0x0202#16 := by decide

/-- V3.4 and V3.6. -/
theorem test_skip_neq_imm : (cycle 0x4100#16 (before 0#16 [(1#4, 9#8)] [])).map (·.pc) = some 0x0204#16 ∧
    (cycle 0x42FF#16 (before 0#16 [(2#4, 0xFF#8)] [])).map (·.pc) = some 0x0202#16 := by decide

/-- V3.10 and V3.8. -/
theorem test_skip_eq_reg : (cycle 0x512A#16 (before 0#16 [(1#4, 7#8), (2#4, 7#8)] [])).map (·.pc) = some 0x0204#16 ∧
    (cycle 0x5120#16 (before 0#16 [(1#4, 7#8), (2#4, 8#8)] [])).map (·.pc) = some 0x0202#16 := by decide

/-- V3.11 and V3.13. -/
theorem test_skip_neq_reg : (cycle 0x9120#16 (before 0#16 [(1#4, 7#8), (2#4, 8#8)] [])).map (·.pc) = some 0x0204#16 ∧
    (cycle 0x9330#16 (before 0#16 [(3#4, 0x42#8)] [])).map (·.pc) = some 0x0202#16 := by decide

/-! ### Registers and ALU (tables V4 and V5): the result and the flag -/

/-- `reg[x]` and `F` after one cycle of `w`. -/
def result (w : Word) (x : Nibble) (regs : List (Nibble × Byte)) : Option (Byte × Byte) :=
  (cycle w (before 0#16 regs [])).map fun t => (t.reg x, t.reg 15#4)

/-- V4.2, V4.5, V4.9. -/
theorem test_load_add_move : result 0x6FAB#16 15#4 [] = some (0xAB#8, 0xAB#8) ∧
    result 0x7001#16 0#4 [(0#4, 0xFF#8), (15#4, 1#8)] = some (0x00#8, 1#8) ∧
    result 0x8120#16 1#4 [(1#4, 1#8), (2#4, 0x9C#8)] = some (0x9C#8, 0#8) := by decide

/-- V4.14, V4.15, V4.16. -/
theorem test_logic : result 0x8011#16 0#4 [(0#4, 0xF0#8), (1#4, 0x0F#8), (15#4, 1#8)] = some (0xFF#8, 1#8) ∧
    result 0x8012#16 0#4 [(0#4, 0xF0#8), (1#4, 0x3C#8)] = some (0x30#8, 0#8) ∧
    result 0x8013#16 0#4 [(0#4, 0xF0#8), (1#4, 0x3C#8)] = some (0xCC#8, 0#8) := by decide

/-- V5.4, V5.7, V5.8. -/
theorem test_add_reg : result 0x8014#16 0#4 [(0#4, 0x80#8), (1#4, 0x7F#8), (15#4, 1#8)] = some (0xFF#8, 0#8) ∧
    result 0x81F4#16 1#4 [(1#4, 0xFF#8), (15#4, 1#8)] = some (0x00#8, 1#8) ∧
    result 0x8F14#16 15#4 [(15#4, 0xF0#8), (1#4, 0x20#8)] = some (1#8, 1#8) := by decide

/-- V5.11, V5.17, V5.19. -/
theorem test_sub_reg : result 0x8015#16 0#4 [(0#4, 5#8), (1#4, 7#8)] = some (0xFE#8, 0#8) ∧
    result 0x81F5#16 1#4 [(1#4, 5#8), (15#4, 1#8)] = some (4#8, 1#8) ∧
    result 0x8F15#16 15#4 [(15#4, 3#8), (1#4, 9#8)] = some (0#8, 0#8) := by decide

/-- V5.29, V5.35, V5.37. -/
theorem test_subn_reg : result 0x8017#16 0#4 [(0#4, 5#8), (1#4, 7#8)] = some (2#8, 1#8) ∧
    result 0x81F7#16 1#4 [(1#4, 1#8), (15#4, 1#8)] = some (0#8, 1#8) ∧
    result 0x8F17#16 15#4 [(15#4, 3#8), (1#4, 9#8)] = some (1#8, 1#8) := by decide

/-- V5.22, V5.27; V5.39, V5.44. -/
theorem test_shifts : result 0x8006#16 0#4 [(0#4, 0x81#8)] = some (0x40#8, 1#8) ∧
    result 0x8F06#16 15#4 [(15#4, 0xFF#8)] = some (0#8, 0#8) ∧
    result 0x800E#16 0#4 [(0#4, 0x81#8)] = some (2#8, 1#8) ∧
    result 0x8F0E#16 15#4 [(15#4, 0xFF#8)] = some (2#8, 2#8) := by decide

/-! ### Index and memory (table V6) -/

/-- V6.2, V6.9, V6.10. -/
theorem test_index : (cycle 0xAFFF#16 (before 0x1234#16 [] [])).map (·.index) = some 0x0FFF#16 ∧
    (cycle 0xC000#16 (before 0xFF00#16 [(0#4, 0xFF#8)] [])).map (·.index) = some 0xFFFF#16 ∧
    (cycle 0xC000#16 (before 0xFF01#16 [(0#4, 0xFF#8)] [])).map (fun t => (t.index, t.status)) =
      some (0xFF01#16, .faulted .indexOverflow) := by decide

/-- Scenario D (V6.12). -/
theorem test_bcd : (cycle 0xD500#16 (before 0x0600#16 [(5#4, 205#8)] [])).map
    (fun t => (t.mem.read 0x600, t.mem.read 0x601, t.mem.read 0x602)) = some (2#8, 0#8, 5#8) := by decide

/-- V6.21: nothing written. -/
theorem test_bcd_bounds : (cycle 0xD000#16 (before 0x0FFE#16 [(0#4, 0xFF#8)] [])).map
    (fun t => (t.mem.read 0xFFE, t.mem.read 0xFFF, t.status)) = some (0#8, 0#8, .faulted .memoryOutOfBounds) := by decide

/-- V6.26. -/
theorem test_store_block : (cycle 0xE100#16 (before 0x0400#16 [(0#4, 4#8), (1#4, 0x55#8), (2#4, 0x66#8)] [])).map
    (fun t => (t.mem.read 0x400, t.mem.read 0x401, t.mem.read 0x402)) = some (4#8, 0x55#8, 0#8) := by decide

/-- V6.28: no partial store. -/
theorem test_store_block_bounds : (cycle 0xE100#16 (before 0x0FFF#16 [(0#4, 0xAB#8), (1#4, 0x55#8)] [])).map
    (fun t => (t.mem.read 0xFFF, t.status)) = some (0#8, .faulted .memoryOutOfBounds) := by decide

/-- V6.33. -/
theorem test_load_block :
    (cycle 0xF100#16 (before 0x0400#16 [(0#4, 0xEE#8), (1#4, 0xEE#8), (2#4, 0xEE#8)] [(0x400, 4#8), (0x401, 0x55#8), (0x402, 0x66#8)])).map
    (fun t => (t.reg 0#4, t.reg 1#4, t.reg 2#4)) = some (4#8, 0x55#8, 0xEE#8) := by decide

/-- V6.39: no partial load. -/
theorem test_load_block_bounds : (cycle 0xF100#16 (before 0x0FFF#16 [(0#4, 0xEE#8)] [(0xFFF, 0x77#8)])).map
    (fun t => (t.reg 0#4, t.status)) = some (0xEE#8, .faulted .memoryOutOfBounds) := by decide

/-! ### Output, halt, unrecognised words, fetch (tables V7 to V9) -/

/-- V7.2, V7.5. -/
theorem test_prints : (cycle 0xF201#16 (before 0#16 [(0#4, 0x37#8), (2#4, 1#8)] [])).map (·.out) =
      some [.trace 0xF201#16, .printRegs [0x37#8, 0#8, 1#8]] ∧
    (cycle 0xF202#16 (before 0x0300#16 [] [(0x301, 5#8), (0x302, 5#8)])).map (·.out) =
      some [.trace 0xF202#16, .printMem [0#8, 5#8, 5#8]] := by decide

/-- V7.8: no print event. -/
theorem test_print_mem_bounds : (cycle 0xF102#16 (before 0x0FFF#16 [] [(0xFFF, 0x77#8)])).map (fun t => (t.out, t.status)) =
    some ([.trace 0xF102#16], .faulted .memoryOutOfBounds) := by decide

/-- V7.11, V7.13. -/
theorem test_halt : (cycle 0xFFFF#16 State.reset).map (fun t => (t.pc, t.out, t.status)) =
      some (0x0202#16, [.trace 0xFFFF#16, .haltNotice], .halted 1) ∧
    (cycle 0xF12F#16 (stacked 0x0200#16 3#8 0#16)).map (fun t => (t.sp, t.status)) = some (3#8, .halted 1) := by decide

/-- V8. -/
theorem test_unrecognised : (cycle 0x8128#16 State.reset).map (fun t => (t.pc, t.out, t.status)) =
      some (0x0202#16, [.trace 0x8128#16, .diagnostic 0x8128#16], .running) ∧
    (cycle 0xF165#16 State.reset).map (·.out) = some [.trace 0xF165#16, .diagnostic 0xF165#16] := by decide

/-- V9.2: the last word of memory; V9.3: one past it. -/
theorem test_fetch_top : (cycle 0x6001#16 (stacked 0x0FFE#16 0#8 0#16)).map (fun t => (t.reg 0#4, t.pc)) = some (1#8, 0x1000#16) ∧
    (cycle 0x6001#16 (stacked 0x0FFF#16 0#8 0#16)).map (fun t => (t.pc, t.out, t.status)) =
      some (0x0FFF#16, [], .faulted .fetchOutOfBounds) := by decide

/-- V10.2: an image of one byte; R216. -/
theorem test_load : (match loadImage [0x60#8] State.reset with | .ok s => some (s.mem, s.nextWord) | .error _ => none) =
    some ([(512, 0x60#8)], 0x6000#16) := by decide

/-! ### Witnesses: for each statement, values that meet its hypotheses, clause by clause and at the ends of their ranges -/

theorem witness_DecodeOfEncodeIsIdentity : Instr.halt.wellFormed = true ∧ (Instr.jump 0xFFF#12).wellFormed = true ∧
    (Instr.unrecognised8F 0x8FFF#16).wellFormed = true ∧ (Instr.unrecognisedF3 0xF003#16).wellFormed = true := by decide

theorem witness_IgnoredBitsDoNotChoose :
    (fieldOpcode 0x0ABC#16 = 0x0#4 ∧ fieldOpcode 0x0000#16 = 0x0#4) ∧
    (fieldOpcode 0x5120#16 = 0x5#4 ∧ (0x5120#16 : Word) &&& 0xFFF0#16 = 0x512F#16 &&& 0xFFF0#16) ∧
    (fieldOpcode 0x9120#16 = 0x9#4 ∧ (0x9120#16 : Word) &&& 0xFFF0#16 = 0x9121#16 &&& 0xFFF0#16) ∧
    (fieldOpcode 0xC300#16 = 0xC#4 ∧ (0xC300#16 : Word) &&& 0xFF00#16 = 0xC3AB#16 &&& 0xFF00#16) ∧
    (fieldOpcode 0xD000#16 = 0xD#4 ∧ (0xD000#16 : Word) &&& 0xFF00#16 = 0xD0FF#16 &&& 0xFF00#16) ∧
    (fieldOpcode 0xE100#16 = 0xE#4 ∧ (0xE100#16 : Word) &&& 0xFF00#16 = 0xE101#16 &&& 0xFF00#16) ∧
    (fieldOpcode 0x8016#16 = 0x8#4 ∧ fieldN 0x8016#16 = 0x6#4 ∧ (0x8016#16 : Word) &&& 0xFF0F#16 = 0x8006#16 &&& 0xFF0F#16) ∧
    (fieldOpcode 0x801E#16 = 0x8#4 ∧ fieldN 0x801E#16 = 0xE#4 ∧ (0x801E#16 : Word) &&& 0xFF0F#16 = 0x800E#16 &&& 0xFF0F#16) ∧
    (fieldOpcode 0xF1A0#16 = 0xF#4 ∧ fieldN 0xF1A0#16 = 0x0#4 ∧ (0xF1A0#16 : Word) &&& 0xFF0F#16 = 0xF100#16 &&& 0xFF0F#16) ∧
    (fieldOpcode 0xF0C1#16 = 0xF#4 ∧ fieldN 0xF0C1#16 = 0x1#4 ∧ (0xF0C1#16 : Word) &&& 0xFF0F#16 = 0xF001#16 &&& 0xFF0F#16) ∧
    (fieldOpcode 0xF1F2#16 = 0xF#4 ∧ fieldN 0xF1F2#16 = 0x2#4 ∧ (0xF1F2#16 : Word) &&& 0xFF0F#16 = 0xF102#16 &&& 0xFF0F#16) ∧
    (fieldOpcode 0xF165#16 = 0xF#4 ∧ (0xF165#16 : Word) &&& 0xFF0F#16 = 0xF105#16 &&& 0xFF0F#16) ∧
    (fieldOpcode 0xF12F#16 = 0xF#4 ∧ fieldN 0xF12F#16 = 0xF#4 ∧ (0xF12F#16 : Word) &&& 0xF00F#16 = 0xFFFF#16 &&& 0xF00F#16) := by
  decide

/-- The encoding clauses of the statements about one instruction: a word of each row, ignored bits set. -/
theorem witness_rows :
    (0x0ABC#16 : Word) &&& 0xF000#16 = 0x0000#16 ∧ (0x1FFF#16 : Word) &&& 0xF000#16 = 0x1000#16 ∧
    (0x2FFF#16 : Word) &&& 0xF000#16 = 0x2000#16 ∧ (0x3F01#16 : Word) &&& 0xF000#16 = 0x3000#16 ∧
    (0x42FF#16 : Word) &&& 0xF000#16 = 0x4000#16 ∧ (0x512A#16 : Word) &&& 0xF000#16 = 0x5000#16 ∧
    (0x6FAB#16 : Word) &&& 0xF000#16 = 0x6000#16 ∧ (0x71FF#16 : Word) &&& 0xF000#16 = 0x7000#16 ∧
    (0x8EF0#16 : Word) &&& 0xF00F#16 = 0x8000#16 ∧ (0x8FF1#16 : Word) &&& 0xF00F#16 = 0x8001#16 ∧
    (0x8012#16 : Word) &&& 0xF00F#16 = 0x8002#16 ∧ (0x8223#16 : Word) &&& 0xF00F#16 = 0x8003#16 ∧
    (0x8FF4#16 : Word) &&& 0xF00F#16 = 0x8004#16 ∧ (0x8015#16 : Word) &&& 0xF00F#16 = 0x8005#16 ∧
    (0x8016#16 : Word) &&& 0xF00F#16 = 0x8006#16 ∧ (0x81F7#16 : Word) &&& 0xF00F#16 = 0x8007#16 ∧
    (0x801E#16 : Word) &&& 0xF00F#16 = 0x800E#16 ∧ (0x9125#16 : Word) &&& 0xF000#16 = 0x9000#16 ∧
    (0xAFFF#16 : Word) &&& 0xF000#16 = 0xA000#16 ∧ (0xBFFF#16 : Word) &&& 0xF000#16 = 0xB000#16 ∧
    (0xC3AB#16 : Word) &&& 0xF000#16 = 0xC000#16 ∧ (0xD0FF#16 : Word) &&& 0xF000#16 = 0xD000#16 ∧
    (0xEF01#16 : Word) &&& 0xF000#16 = 0xE000#16 ∧ (0xF1A0#16 : Word) &&& 0xF00F#16 = 0xF000#16 ∧
    (0xF0C1#16 : Word) &&& 0xF00F#16 = 0xF001#16 ∧ (0xFFF2#16 : Word) &&& 0xF00F#16 = 0xF002#16 ∧
    (0xF12F#16 : Word) &&& 0xF00F#16 = 0xF00F#16 := by decide

/-- ReturnPopsTheReturnAddress, CallPushesTheReturnAddress, NoSlotAboveFifteen: each range of `sp` at its ends. -/
theorem witness_stack_ranges :
    ((stacked 0x0202#16 0#8 0#16).sp.toNat = 0) ∧
    (1 ≤ (stacked 0x0202#16 1#8 0x0206#16).sp.toNat ∧ (stacked 0x0202#16 15#8 0x1000#16).sp.toNat ≤ 15) ∧
    ((stacked 0x0202#16 15#8 0x0206#16).sp.toNat = 15) ∧ (stacked 0x0202#16 14#8 0x0206#16).sp.toNat ≤ 14 ∧
    15 < (stacked 0x0202#16 16#8 0x0206#16).sp.toNat := by decide

/-- The two skip statements: the highest `pc` they speak of, and the highest a run reaches. -/
theorem witness_skip_ranges :
    (stacked 65533#16 0#8 0#16).pc.toNat ≤ 65533 ∧ (stacked 4096#16 0#8 0#16).pc.toNat ≤ 65533 := by decide

/-- The register statements: a destination that is not register 15, one that is, and a register that is neither. -/
theorem witness_destinations : (0#4 : Nibble) ≠ 15#4 ∧ (15#4 : Nibble) = 15#4 ∧ (1#4 : Nibble) ≠ 0#4 := by decide

/-- AddIndexAddsOrFaults: the largest sum that fits, the smallest that does not. -/
theorem witness_AddIndexAddsOrFaults :
    (before 0xFF00#16 [(0#4, 0xFF#8)] []).index.toNat + ((before 0xFF00#16 [(0#4, 0xFF#8)] []).reg 0#4).toNat ≤ 65535 ∧
    65535 < (before 0xFF01#16 [(0#4, 0xFF#8)] []).index.toNat + ((before 0xFF01#16 [(0#4, 0xFF#8)] []).reg 0#4).toNat := by decide

/-- The block, bcd and range statements: the highest range that fits, the lowest that does not, and a register of the range. -/
theorem witness_block_ranges :
    (before 4093#16 [] []).index.toNat + 2 ≤ 4095 ∧ 4095 < (before 4094#16 [] []).index.toNat + 2 ∧
    (before 4080#16 [] []).index.toNat + (15#4 : Nibble).toNat ≤ 4095 ∧
    4095 < (before 4081#16 [] []).index.toNat + (15#4 : Nibble).toNat ∧
    (before 4095#16 [] []).index.toNat + (0#4 : Nibble).toNat ≤ 4095 ∧ (15#4 : Nibble).toNat ≤ (15#4 : Nibble).toNat ∧
    (0#4 : Nibble).toNat < (1#4 : Nibble).toNat := by decide

/-- Saved from 0FFE, the last place for two registers, and loaded back. -/
theorem witness_LoadBlockRestoresWhatStoreBlockSaved :
    ∃ s t u : State, s.index.toNat + (1#4 : Nibble).toNat ≤ 4095 ∧ exec (.storeBlock 1#4) s = .next t ∧ u.index = s.index ∧
      ∀ i : Nibble, i.toNat ≤ (1#4 : Nibble).toNat → u.mem.read (u.effAddr i.toNat) = t.mem.read (s.effAddr i.toNat) :=
  ⟨before 0x0FFE#16 [(0#4, 4#8), (1#4, 0x55#8)] [], _, before 0x0FFE#16 [] [(0xFFE, 4#8), (0xFFF, 0x55#8)],
    by decide, rfl, by decide, by decide⟩

theorem witness_UnrecognisedWordsOnlyReport : Instr.unrecognised88 ∈ unrecognisedForms ∧ Instr.unrecognisedFE ∈ unrecognisedForms := by
  simp [unrecognisedForms]

/-- A state that fetches `w` from the last address there is to fetch from. -/
def atTop (w : Word) : State := (stacked 0x0FFE#16 0#8 0#16).withFetchWord 16 w.toNat

theorem witness_UnrecognisedCycleContinues :
    ((atTop 0x8128#16).status = .running ∧ (atTop 0x8128#16).pc.toNat ≤ 4094) ∧
    (fieldOpcode (atTop 0x8128#16).nextWord = 0x8#4 ∧
      fieldN (atTop 0x8128#16).nextWord ∈ [0x8#4, 0x9#4, 0xA#4, 0xB#4, 0xC#4, 0xD#4, 0xF#4]) ∧
    (fieldOpcode (atTop 0xF003#16).nextWord = 0xF#4 ∧ 0x3 ≤ (fieldN (atTop 0xF003#16).nextWord).toNat) ∧
    (fieldOpcode (atTop 0xF11E#16).nextWord = 0xF#4 ∧ (fieldN (atTop 0xF11E#16).nextWord).toNat ≤ 0xE) := by decide

theorem witness_StepRunsTheDecodedInstruction :
    (atTop 0x6001#16).status = .running ∧ (atTop 0x6001#16).pc.toNat ≤ 4094 ∧
    decode [(atTop 0x6001#16).mem.read (atTop 0x6001#16).pc.toNat, (atTop 0x6001#16).mem.read ((atTop 0x6001#16).pc.toNat + 1)] =
      .ok (.loadImm 0#4 1#8, []) ∧ (Instr.loadImm 0#4 1#8).wellFormed = true := by
  refine ⟨by decide, by decide, rfl, by decide⟩

/-- FetchNeedsNoAlignment and FetchOutOfBoundsFaults: the last address that fetches, the first that does not, and the last there is. -/
theorem witness_fetch_ranges :
    4094 < 4095 ∧ 4095 ≤ 4095 ∧ (stacked 0x0FFF#16 0#8 0#16).status = .running ∧ 4095 ≤ (stacked 0x0FFF#16 0#8 0#16).pc.toNat ∧
    4095 ≤ (stacked 0xFFFF#16 0#8 0#16).pc.toNat := by decide

/-- RunningEngineAlwaysSteps, at both ends of `sp`. -/
theorem witness_RunningEngineAlwaysSteps :
    State.reset.status = .running ∧ State.reset.sp.toNat ≤ 15 ∧ (stacked 0x0200#16 15#8 0x1000#16).status = .running ∧
    (stacked 0x0200#16 15#8 0x1000#16).sp.toNat ≤ 15 := by decide

/-- A cycle that answers a next state: StoppedEngineHasNoStep, OutputIsNeverRead, and the first clause of PcAfterEachCycle and
EventsOfACycle, whose `pc` is out of bounds. -/
theorem witness_a_cycle : (∃ t, step (atTop 0x6001#16) = .next t) ∧
    ∃ t, step (stacked 0x0FFF#16 0#8 0#16) = .next t ∧ 4095 ≤ (stacked 0x0FFF#16 0#8 0#16).pc.toNat :=
  ⟨⟨_, rfl⟩, _, rfl, by decide⟩

/-- PcAfterEachCycle, the second clause: a cycle whose handler faults. -/
theorem witness_PcAfterEachCycle_fault :
    ∃ t, step (atTop 0x0000#16) = .next t ∧ (atTop 0x0000#16).pc.toNat < 4095 ∧ ∃ c, t.status = .faulted c :=
  ⟨_, rfl, by decide, _, rfl⟩

/-- PcAfterEachCycle, the third clause, in one word of each of its cases, the skips taken and not. -/
theorem witness_PcAfterEachCycle :
    (∃ t, step (atTop 0x3001#16) = .next t ∧ (atTop 0x3001#16).pc.toNat < 4095 ∧ t.notFaulted) ∧
    ([0x1FFF#16, 0x2FFE#16, 0xBFFF#16, 0x3000#16, 0x3001#16, 0x4000#16, 0x4001#16, 0x5010#16, 0x9010#16, 0x6001#16, 0xFFFF#16,
      0x8008#16] : List Word).all (fun w => match step (atTop w) with | .next t => t.status = .running ∨ t.status = .halted 1 | _ => false) ∧
    (cycle 0x0000#16 (stacked 0x0FFE#16 1#8 0x1000#16)).map (·.status) = some .running := by
  refine ⟨⟨_, rfl, by decide, fun c => by cases c <;> decide⟩, by decide, by decide⟩

/-- EventsOfACycle, the second clause: with and without a second event. -/
theorem witness_EventsOfACycle : (∃ t, step (atTop 0x6001#16) = .next t ∧ t.out = [.trace 0x6001#16]) ∧
    ∃ t, step (atTop 0xFFFF#16) = .next t ∧ t.out = [.trace 0xFFFF#16, .haltNotice] :=
  ⟨⟨_, rfl, by decide⟩, _, rfl, by decide⟩

/-- A call that writes the last slot, a halt, and a return that faults. -/
theorem witness_OnlyTheNamedInstructionsWrite : (∃ t, exec (.call 0xFFF#12) (stacked 0x0202#16 14#8 0#16) = .next t) ∧
    (∃ t, exec .halt State.reset = .next t) ∧ ∃ t, exec .ret State.reset = .next t := ⟨⟨_, rfl⟩, ⟨_, rfl⟩, _, rfl⟩

/-- EachFaultHasItsInstruction and FaultsArePrecise: a cycle for each cause. -/
theorem witness_each_fault :
    (∃ t, step (stacked 0x0FFF#16 0#8 0#16) = .next t ∧ t.status = .faulted .fetchOutOfBounds) ∧
    (∃ t, step State.reset = .next t ∧ t.status = .faulted .stackUnderflow) ∧
    (∃ t, step ((stacked 0x0200#16 15#8 0#16).withFetchWord 16 0x2300) = .next t ∧ t.status = .faulted .stackOverflow) ∧
    (∃ t, step ((before 0xFF01#16 [(0#4, 0xFF#8)] []).withFetchWord 16 0xC000) = .next t ∧ t.status = .faulted .indexOverflow) ∧
    (∃ t, step ((before 0x0FFE#16 [] []).withFetchWord 16 0xD000) = .next t ∧ t.status = .faulted .memoryOutOfBounds) ∧
    ∃ t, step ((before 0x0FFF#16 [] []).withFetchWord 16 0xF102) = .next t ∧ t.status = .faulted .memoryOutOfBounds :=
  ⟨⟨_, rfl, rfl⟩, ⟨_, rfl, rfl⟩, ⟨_, rfl, rfl⟩, ⟨_, rfl, rfl⟩, ⟨_, rfl, rfl⟩, _, rfl, rfl⟩

/-- MemoryFaultsExactlyOutOfRange and StackFaultsExactlyAtItsEnds: states that are not Faulted, at the ends of their ranges. -/
theorem witness_fault_conditions :
    ((before 4081#16 [] []).notFaulted ∧ 4095 < (before 4081#16 [] []).index.toNat + (15#4 : Nibble).toNat) ∧
    ((before 4094#16 [] []).notFaulted ∧ 4095 < (before 4094#16 [] []).index.toNat + 2) ∧
    ((stacked 0x0202#16 15#8 0#16).notFaulted ∧ (stacked 0x0202#16 15#8 0#16).sp.toNat = 15) ∧
    ((stacked 0x0202#16 0#8 0#16).notFaulted ∧ (stacked 0x0202#16 0#8 0#16).sp.toNat = 0) := by
  refine ⟨⟨fun c => ?_, by decide⟩, ⟨fun c => ?_, by decide⟩, ⟨fun c => ?_, by decide⟩, fun c => ?_, by decide⟩ <;> cases c <;> decide

/-- `store-block r1` at 0200 with `index` = 0202. -/
def selfStore : State := (before 0x0202#16 [(0#4, 0x60#8), (1#4, 0x11#8)] []).withFetchWord 16 0xE100

theorem witness_StoredCodeIsFetchedNext :
    ∃ t, selfStore.pc.toNat ≤ 4094 ∧ decodeWord selfStore.nextWord = .storeBlock 1#4 ∧ step selfStore = .next t ∧
      selfStore.index.toNat + (1#4 : Nibble).toNat ≤ 4095 ∧ (1#4 : Nibble).toNat = (0#4 : Nibble).toNat + 1 ∧
      (1#4 : Nibble).toNat ≤ (1#4 : Nibble).toNat ∧ selfStore.effAddr (0#4 : Nibble).toNat = selfStore.pc.toNat + 2 :=
  ⟨_, by decide, by decide, rfl, by decide, by decide, by decide, by decide⟩

/-- LoadPlacesTheImage: the longest image, the shortest too long, and the addresses on either side of an image. -/
theorem witness_LoadPlacesTheImage :
    (List.replicate 3584 0xFF#8).length ≤ 3584 ∧ 3584 < (List.replicate 3585 0xFF#8).length ∧ 0 < [0x60#8].length ∧
    (511 < 512 ∨ 512 + [0x60#8].length ≤ 511) ∧ (513 < 512 ∨ 512 + [0x60#8].length ≤ 513) := by
  simp only [List.length_replicate]; decide

/-- The invariant at reset's own step, and at its bounds: `sp` 15, a slot and `pc` at 4096, and a `pc` of 4350. -/
def atBounds (pc : Word) : State := { stacked pc 15#8 0#16 with stack := (Vector.replicate 16 4096#16).set 0 0#16 }

theorem witness_EveryStepKeepsTheInvariant :
    (State.reset.Inv ∧ ∃ t, step State.reset = .next t) ∧ ((atBounds 512#16).Inv ∧ ∃ t, step (atBounds 512#16) = .next t) ∧
    ((atBounds 4350#16).Inv ∧ ∃ t, step (atBounds 4350#16) = .next t) :=
  ⟨⟨⟨by decide, by decide, by decide, by decide, by decide, fun e h => by cases h⟩, _, rfl⟩,
    ⟨⟨by decide, by decide, by decide, by decide, by decide, fun e h => by cases h⟩, _, rfl⟩,
    ⟨by decide, by decide, by decide, by decide, by decide, fun e h => by cases h⟩, _, rfl⟩

/-- One image for each of the three ends: still running, halted, faulted. -/
theorem witness_LoadedRunsEndOnlyByHaltOrFault :
    (∃ s t, loadImage [0x12#8, 0x00#8] State.reset = .ok s ∧ s.reaches 1 t ∧ t.status = .running) ∧
    (∃ s t, loadImage [0xFF#8, 0xFF#8] State.reset = .ok s ∧ s.reaches 1 t ∧ t.status = .halted 1) ∧
    ∃ s t, loadImage [] State.reset = .ok s ∧ s.reaches 1 t ∧ t.status = .faulted .stackUnderflow :=
  ⟨⟨_, _, rfl, rfl, rfl⟩, ⟨_, _, rfl, rfl, rfl⟩, _, _, rfl, rfl, rfl⟩

/-- A host that numbers the faults from 2 up. -/
def someHost : Config.HostParams where
  faultExitStatus c := c.code + 1
  distinct c d h := by cases c <;> cases d <;> first | rfl | simp [FaultCause.code] at h
  notHalt c := by cases c <;> decide
  sinkFormat _ := ""

/-- Two causes that differ, and what such a host sees of them, of halt and of a running engine. -/
theorem witness_TerminalConditionsAreDistinct :
    FaultCause.fetchOutOfBounds ≠ FaultCause.indexOverflow ∧ exitStatus someHost (.faulted .fetchOutOfBounds) = some 2 ∧
    exitStatus someHost (.faulted .indexOverflow) = some 6 ∧ exitStatus someHost (.halted 1) = some 1 ∧
    exitStatus someHost .running = none := by decide

end Sys2Proof.Tests
end

