-- ==== Sys2Proof/Proofs/Scope.lean ====
section
/-!
PROOFS. The encoder writes the canonical word (O7), the spec's sample words decode (O2), and what the host sees of each status (O55).
-/

namespace Sys2Proof

/-! ### A word written again from its own fields -/

section Fields

variable {w : Word} {op k : Nibble}

theorem encodeNNN_fields (ho : fieldOpcode w = op) : encodeNNN op (fieldNNN w) = w := by
  subst ho
  apply BitVec.eq_of_toNat_eq
  rw [toNat_encodeNNN, toNat_fieldOpcode, toNat_fieldNNN]; omega

theorem encodeXKK_fields (ho : fieldOpcode w = op) : encodeXKK op (fieldX w) (fieldKK w) = w := by
  subst ho
  apply BitVec.eq_of_toNat_eq
  rw [toNat_encodeXKK, toNat_fieldOpcode, toNat_fieldX, toNat_fieldKK]; omega

theorem encodeXYN_fields (ho : fieldOpcode w = op) (hn : fieldN w = k) : encodeXYN op (fieldX w) (fieldY w) k = w := by
  subst ho hn
  exact (word_eq_nibbles w).symm

/-- A mask of whole nibbles, on the fields of the word. -/
theorem and_mask_fields (w : Word) (a b c d : Nibble) :
    w &&& encodeXYN a b c d = encodeXYN (fieldOpcode w &&& a) (fieldX w &&& b) (fieldY w &&& c) (fieldN w &&& d) := by
  conv_lhs => rw [word_eq_nibbles w]
  exact and_nibbles ..

/-- Format `XY`: the bits of `n` cleared. -/
theorem encodeXYN_clear_n (ho : fieldOpcode w = op) : encodeXYN op (fieldX w) (fieldY w) 0 = w &&& 0xFFF0#16 := by
  rw [show (0xFFF0#16 : Word) = encodeXYN 0xF 0xF 0xF 0 from rfl, and_mask_fields, ho]
  simp [and_allOnes4]

/-- Format `X`: the bits of `y` and `n` cleared. -/
theorem encodeXYN_clear_yn (ho : fieldOpcode w = op) : encodeXYN op (fieldX w) 0 0 = w &&& 0xFF00#16 := by
  rw [show (0xFF00#16 : Word) = encodeXYN 0xF 0xF 0 0 from rfl, and_mask_fields, ho]
  simp [and_allOnes4]

/-- Format `XN`: the bits of `y` cleared. -/
theorem encodeXYN_clear_y (ho : fieldOpcode w = op) (hn : fieldN w = k) :
    encodeXYN op (fieldX w) 0 k = w &&& 0xFF0F#16 := by
  rw [show (0xFF0F#16 : Word) = encodeXYN 0xF 0xF 0 0xF from rfl, and_mask_fields, ho, hn]
  simp [and_allOnes4]

end Fields

/-! ### The canonical word -/

/-- For `w` a word of the instruction `i`, the encoder writes `w` with the bits that `i` ignores cleared, and 0xFFFF for halt
(R12, R78): O7 for one instruction, so that the families of the dispatch can be treated each by itself. -/
def EncodesCanonically (w : Word) (i : Instr) : Prop :=
  encode i = match i with
    | .ret => 0x0000#16
    | .skipEqReg _ _ | .skipNeqReg _ _ => w &&& 0xFFF0#16
    | .addIndex _ | .bcd _ | .storeBlock _ => w &&& 0xFF00#16
    | .shiftRight _ | .shiftLeft _ | .loadBlock _ | .printRegs _ | .printMem _ => w &&& 0xFF0F#16
    | .halt => 0xFFFF#16
    | _ => w

theorem decodeFamily8_encodesCanonically {w : Word} (ho : fieldOpcode w = 0x8#4) :
    EncodesCanonically w (decodeFamily8 w) := by
  unfold decodeFamily8
  split
  next hn => exact encodeXYN_fields ho hn   -- move
  next hn => exact encodeXYN_fields ho hn   -- or
  next hn => exact encodeXYN_fields ho hn   -- and
  next hn => exact encodeXYN_fields ho hn   -- xor
  next hn => exact encodeXYN_fields ho hn   -- add-reg
  next hn => exact encodeXYN_fields ho hn   -- sub-reg
  next hn => exact encodeXYN_clear_y ho hn  -- shift-right
  next hn => exact encodeXYN_fields ho hn   -- subn-reg
  case h_15 hn => exact encodeXYN_clear_y ho hn  -- shift-left
  all_goals rfl  -- the unrecognised words are carried whole

theorem decodeFamilyF_encodesCanonically {w : Word} (ho : fieldOpcode w = 0xF#4) :
    EncodesCanonically w (decodeFamilyF w) := by
  unfold decodeFamilyF
  split
  next hn => exact encodeXYN_clear_y ho hn  -- load-block
  next hn => exact encodeXYN_clear_y ho hn  -- print-regs
  next hn => exact encodeXYN_clear_y ho hn  -- print-mem
  all_goals rfl  -- the unrecognised words are carried whole; halt has one canonical word

theorem decodeWord_encodesCanonically (w : Word) : EncodesCanonically w (decodeWord w) := by
  by_cases hF : fieldOpcode w = 0xF#4
  · rw [decodeWord_opcode_F hF]
    exact decodeFamilyF_encodesCanonically hF
  unfold decodeWord
  split
  next => rfl                             -- return
  next ho => exact encodeNNN_fields ho    -- jump
  next ho => exact encodeNNN_fields ho    -- call
  next ho => exact encodeXKK_fields ho    -- skip-eq-imm
  next ho => exact encodeXKK_fields ho    -- skip-neq-imm
  next ho => exact encodeXYN_clear_n ho   -- skip-eq-reg
  next ho => exact encodeXKK_fields ho    -- load-imm
  next ho => exact encodeXKK_fields ho    -- add-imm
  next ho => exact decodeFamily8_encodesCanonically ho
  next ho => exact encodeXYN_clear_n ho   -- skip-neq-reg
  next ho => exact encodeNNN_fields ho    -- load-index
  next ho => exact encodeNNN_fields ho    -- jump-offset
  next ho => exact encodeXYN_clear_yn ho  -- add-index
  next ho => exact encodeXYN_clear_yn ho  -- bcd
  next ho => exact encodeXYN_clear_yn ho  -- store-block
  next =>  -- the last arm is `opcode` = 0xF, excluded by `hF`
    have hall := nibble_cases (fieldOpcode w)
    simp_all

/-- Settles O7: the decoder's cases, with one lemma for each operand format. -/
theorem encodeWritesTheCanonicalWord : Obligations.EncodeWritesTheCanonicalWord :=
  decodeWord_encodesCanonically

/-- Settles O2, by running the decoder on the twenty-two words. -/
theorem sampleWordsDecode : Obligations.SampleWordsDecode := by
  unfold Obligations.SampleWordsDecode
  decide

end Sys2Proof

namespace Sys2Proof.Machine

/-- Only a running engine has no terminal condition (R187). -/
theorem exitStatus_eq_none_iff (p : Config.HostParams) (r : RunStatus) : exitStatus p r = none ↔ r = .running := by
  cases r <;> simp [exitStatus]

@[simp] theorem exitStatus_halted (p : Config.HostParams) (e : Nat) : exitStatus p (.halted e) = some e := rfl

@[simp] theorem exitStatus_faulted (p : Config.HostParams) (c : FaultCause) :
    exitStatus p (.faulted c) = some (p.faultExitStatus c) := rfl

/-- Settles O55: the host's numbers are told apart by the two constraints of `HostParams` (entry 10). -/
theorem terminalConditionsAreDistinct : Obligations.TerminalConditionsAreDistinct := by
  intro p
  refine ⟨exitStatus_eq_none_iff p, exitStatus_halted p 1, exitStatus_faulted p, fun c h => ?_, fun c d hcd h => ?_⟩
  · exact p.notHalt c (Option.some.inj h)
  · exact hcd (p.distinct c d (Option.some.inj h))

end Sys2Proof.Machine
end

/-!
PROOFS. What each meaning can answer, said once (`Answers`), and from it the invariant along steps and runs (O52, O53, O54), that a
running engine steps (O39) and a stopped one does not (O38, O12), where `pc` goes (O41), which instruction writes what (O44); and that
the engine never reads its output (O43).
-/

namespace Sys2Proof

/-! ### Which instruction may write what (the table of `10_state.md` section 1) -/

/-- The instructions with a fatal condition of their own (R198). -/
def Instr.mayRaise (i : Instr) : Prop :=
  i = .ret ∨ (∃ nnn, i = .call nnn) ∨
    ∃ x, i = .addIndex x ∨ i = .bcd x ∨ i = .storeBlock x ∨ i = .loadBlock x ∨ i = .printMem x

/-- The instructions that write `pc` in the execute stage (R24, R25). -/
def Instr.mayWritePc (i : Instr) : Prop :=
  i = .ret ∨ (∃ nnn, i = .jump nnn ∨ i = .call nnn ∨ i = .jumpOffset nnn) ∨
    (∃ x kk, i = .skipEqImm x kk ∨ i = .skipNeqImm x kk) ∨ ∃ x y, i = .skipEqReg x y ∨ i = .skipNeqReg x y

/-- The instructions that emit an event beside the trace (R34). -/
def Instr.mayEmit (i : Instr) : Prop :=
  i = .halt ∨ (∃ x, i = .printRegs x ∨ i = .printMem x) ∨ ∃ c ∈ Machine.unrecognisedForms, ∃ w, i = c w

/-- The instructions that write register `j`: as their destination, as the flag, or as part of a block (R21, R23). -/
def Instr.mayWriteReg (i : Instr) (j : Nibble) : Prop :=
  (∃ kk, i = .loadImm j kk ∨ i = .addImm j kk) ∨
  (∃ y, i = .move j y ∨ i = .orReg j y ∨ i = .andReg j y ∨ i = .xorReg j y) ∨
  (∃ x y, (j = x ∨ j = 15#4) ∧ (i = .addReg x y ∨ i = .subReg x y ∨ i = .subnReg x y)) ∨
  (∃ x, (j = x ∨ j = 15#4) ∧ (i = .shiftRight x ∨ i = .shiftLeft x)) ∨
  ∃ x : Nibble, j.toNat ≤ x.toNat ∧ i = .loadBlock x

end Sys2Proof

namespace Sys2Proof.Machine

/-! ### Addresses as numbers -/

@[simp] theorem toNat_zext12 (a : Addr12) : (zext12 a).toNat = a.toNat := by
  simp only [zext12, BitVec.toNat_setWidth]; omega

@[simp] theorem toNat_zext8 (b : Byte) : (zext8 b).toNat = b.toNat := by
  simp only [zext8, BitVec.toNat_setWidth]; omega

/-- The target of jump-offset never wraps (R123). -/
theorem toNat_offsetTarget (s : State) (nnn : Addr12) : (s.offsetTarget nnn).toNat = nnn.toNat + (s.reg 0#4).toNat := by
  simp only [State.offsetTarget, BitVec.toNat_add, toNat_zext12, toNat_zext8]; omega

theorem toNat_add_two {p : Word} (h : p.toNat ≤ 65533) : (p + 2#16).toNat = p.toNat + 2 := by
  simp only [BitVec.toNat_add, BitVec.toNat_ofNat]; omega

theorem toNat_fetched_pc {s : State} (w : Word) (h : s.pc.toNat < 4095) : (s.fetched w).pc.toNat = s.pc.toNat + 2 :=
  toNat_add_two (by omega)

theorem toNat_skipIf_pc {s : State} (c : Bool) (h : s.pc.toNat ≤ 65533) :
    (s.skipIf c).pc.toNat = s.pc.toNat + if c then 2 else 0 := by
  cases c
  · rfl
  · exact toNat_add_two h

theorem toNat_skipIf_pc_le (s : State) (c : Bool) : (s.skipIf c).pc.toNat ≤ s.pc.toNat + 2 := by
  cases c
  · exact Nat.le_add_right _ _
  · exact (BitVec.toNat_add s.pc 2#16).le.trans (Nat.mod_le _ _)

/-- A skip writes `pc` only. -/
theorem skipIf_eq_setPc (s : State) (c : Bool) : s.skipIf c = s.setPc (s.skipIf c).pc := by cases c <;> rfl

/-! ### What a meaning can answer -/

/-- Everything the meaning of `i` can answer from `s`: the raise of a fatal condition, the write of one piece of state that `i` may
write, the pop of return, the push of call, the halt, or the stop where `sp` names no slot (entry 8). -/
inductive Answers (s : State) : Instr → Result → Prop
  | raises {i : Instr} (r : Raise) (hi : i.mayRaise) : Answers s i (.next (s.raise r))
  | registers {i : Instr} (rs : Vector Byte 16)
      (hi : ∀ j, ({ s with regs := rs } : State).reg j = s.reg j ∨ i.mayWriteReg j) : Answers s i (.next { s with regs := rs })
  | pc {i : Instr} (p : Word) (hi : i.mayWritePc) (hp : p.toNat ≤ max 4350 (s.pc.toNat + 2)) : Answers s i (.next (s.setPc p))
  | index {i : Instr} (a : Word) (hi : (∃ nnn, i = .loadIndex nnn) ∨ ∃ x, i = .addIndex x) : Answers s i (.next (s.setIndex a))
  | memory {i : Instr} (m : Memory) (hi : ∃ x, i = .bcd x ∨ i = .storeBlock x) (hm : s.mem.wf → m.wf) :
      Answers s i (.next { s with mem := m })
  | emits {i : Instr} (e : Event) (hi : i.mayEmit) : Answers s i (.next (s.emit e))
  | pops (h : 1 ≤ s.sp.toNat ∧ s.sp.toNat ≤ 15) :
      Answers s .ret (.next { s with pc := s.stack[s.sp.toNat]'(by omega), sp := s.sp - 1#8 })
  | pushes (nnn : Addr12) (h : s.sp.toNat ≤ 14) :
      Answers s (.call nnn)
        (.next { s with stack := s.stack.set (s.sp.toNat + 1) s.pc (by omega), pc := zext12 nnn, sp := s.sp + 1#8 })
  | halts : Answers s .halt (.next { s.emit .haltNotice with status := .halted 1 })
  | noSlot {i : Instr} (k : Nat) (hi : i = .ret ∨ ∃ nnn, i = .call nnn) (h : 15 < s.sp.toNat) : Answers s i (.fault (.noStackSlot k))

namespace Answers

variable {s t : State} {i : Instr}

theorem setReg {x : Nibble} (v : Byte) (hx : i.mayWriteReg x) : Answers s i (.next (s.setReg x v)) :=
  .registers _ fun j => by
    show (s.setReg x v).reg j = s.reg j ∨ _
    by_cases h : j = x
    · exact .inr (h ▸ hx)
    · exact .inl (s.reg_setReg_ne v h)

theorem setRegThenFlag {x : Nibble} (r f : Byte) (hx : i.mayWriteReg x) (hF : i.mayWriteReg 15#4) :
    Answers s i (.next (s.setRegThenFlag x r f)) :=
  .registers _ fun j => by
    show (s.setRegThenFlag x r f).reg j = s.reg j ∨ _
    by_cases h : j = 15#4
    · exact .inr (h ▸ hF)
    · by_cases h' : j = x
      · exact .inr (h' ▸ hx)
      · exact .inl (by rw [State.reg_setRegThenFlag, if_neg h, if_neg h'])

theorem setFlagThenShift {x : Nibble} (f : Byte) (g : Byte → Byte) (hx : i.mayWriteReg x) (hF : i.mayWriteReg 15#4) :
    Answers s i (.next (s.setFlagThenShift x f g)) :=
  .registers _ fun j => by
    show (s.setFlagThenShift x f g).reg j = s.reg j ∨ _
    by_cases h : j = 15#4
    · exact .inr (h ▸ hF)
    · by_cases h' : j = x
      · exact .inr (h' ▸ hx)
      · exact .inl (by rw [State.reg_setFlagThenShift, if_neg h', if_neg h])

theorem skipIf (c : Bool) (hi : i.mayWritePc) : Answers s i (.next (s.skipIf c)) := by
  rw [skipIf_eq_setPc]
  exact .pc _ hi ((toNat_skipIf_pc_le s c).trans (le_max_right _ _))

end Answers

theorem execRet_answers (s : State) : Answers s .ret (execRet s) := by
  obtain ⟨-, e⟩ | ⟨h, e⟩ | ⟨h, e⟩ := execRet_cases s <;> rw [e]
  · exact .raises _ (.inl rfl)
  · exact .pops h
  · exact .noSlot _ (.inl rfl) h

theorem execCall_answers (nnn : Addr12) (s : State) : Answers s (.call nnn) (execCall nnn s) := by
  obtain ⟨-, e⟩ | ⟨h, e⟩ | ⟨h, e⟩ := execCall_cases nnn s <;> rw [e]
  · exact .raises _ (.inr (.inl ⟨nnn, rfl⟩))
  · exact .pushes nnn h
  · exact .noSlot _ (.inr ⟨nnn, rfl⟩) h

theorem execAddIndex_answers (x : Nibble) (s : State) : Answers s (.addIndex x) (execAddIndex x s) := by
  obtain ⟨-, e⟩ | ⟨-, e⟩ := execAddIndex_cases x s <;> rw [e]
  · exact .raises _ (by simp [Instr.mayRaise])
  · exact .index _ (.inr ⟨x, rfl⟩)

theorem execBcd_answers (x : Nibble) (s : State) : Answers s (.bcd x) (execBcd x s) := by
  obtain ⟨-, e⟩ | ⟨-, m, e, hm, -⟩ := execBcd_cases x s <;> rw [e]
  · exact .raises _ (by simp [Instr.mayRaise])
  · exact .memory m ⟨x, .inl rfl⟩ hm

theorem execStoreBlock_answers (x : Nibble) (s : State) : Answers s (.storeBlock x) (execStoreBlock x s) := by
  obtain ⟨-, e⟩ | ⟨-, m, e, hm, -⟩ := execStoreBlock_cases x s <;> rw [e]
  · exact .raises _ (by simp [Instr.mayRaise])
  · exact .memory m ⟨x, .inr rfl⟩ hm

theorem execLoadBlock_answers (x : Nibble) (s : State) : Answers s (.loadBlock x) (execLoadBlock x s) := by
  obtain ⟨-, e⟩ | ⟨-, rs, e, hr⟩ := execLoadBlock_cases x s <;> rw [e]
  · exact .raises _ (by simp [Instr.mayRaise])
  · refine .registers rs fun j => ?_
    rw [hr]
    by_cases h : j.toNat ≤ x.toNat
    · exact .inr (by simp [Instr.mayWriteReg, h])
    · exact .inl (if_neg h)

theorem execPrintMem_answers (x : Nibble) (s : State) : Answers s (.printMem x) (execPrintMem x s) := by
  obtain ⟨-, e⟩ | ⟨-, e⟩ := execPrintMem_cases x s <;> rw [e]
  · exact .raises _ (by simp [Instr.mayRaise])
  · exact .emits _ (by simp [Instr.mayEmit])

/-- Whatever the instruction, its meaning answers one of the cases of `Answers`. -/
theorem exec_answers (i : Instr) (s : State) : Answers s i (exec i s) := by
  cases i with
  | ret => exact execRet_answers s
  | call nnn => exact execCall_answers nnn s
  | jump nnn => exact .pc _ (by simp [Instr.mayWritePc]) (by rw [toNat_zext12]; omega)
  | jumpOffset nnn => exact .pc _ (by simp [Instr.mayWritePc]) (by rw [toNat_offsetTarget]; omega)
  | skipEqImm x kk => exact .skipIf _ (by simp [Instr.mayWritePc])
  | skipNeqImm x kk => exact .skipIf _ (by simp [Instr.mayWritePc])
  | skipEqReg x y => exact .skipIf _ (by simp [Instr.mayWritePc])
  | skipNeqReg x y => exact .skipIf _ (by simp [Instr.mayWritePc])
  | loadImm x kk => exact .setReg _ (by simp [Instr.mayWriteReg])
  | addImm x kk => exact .setReg _ (by simp [Instr.mayWriteReg])
  | move x y => exact .setReg _ (by simp [Instr.mayWriteReg])
  | orReg x y => exact .setReg _ (by simp [Instr.mayWriteReg])
  | andReg x y => exact .setReg _ (by simp [Instr.mayWriteReg])
  | xorReg x y => exact .setReg _ (by simp [Instr.mayWriteReg])
  | addReg x y => exact .setRegThenFlag _ _ (by simp [Instr.mayWriteReg]) (by simp [Instr.mayWriteReg])
  | subReg x y => exact .setRegThenFlag _ _ (by simp [Instr.mayWriteReg]) (by simp [Instr.mayWriteReg])
  | subnReg x y => exact .setRegThenFlag _ _ (by simp [Instr.mayWriteReg]) (by simp [Instr.mayWriteReg])
  | shiftRight x => exact .setFlagThenShift _ _ (by simp [Instr.mayWriteReg]) (by simp [Instr.mayWriteReg])
  | shiftLeft x => exact .setFlagThenShift _ _ (by simp [Instr.mayWriteReg]) (by simp [Instr.mayWriteReg])
  | loadIndex nnn => exact .index _ (.inl ⟨nnn, rfl⟩)
  | addIndex x => exact execAddIndex_answers x s
  | bcd x => exact execBcd_answers x s
  | storeBlock x => exact execStoreBlock_answers x s
  | loadBlock x => exact execLoadBlock_answers x s
  | printRegs x => exact .emits _ (by simp [Instr.mayEmit])
  | printMem x => exact execPrintMem_answers x s
  | halt => exact .halts
  | _ => exact .emits _ (by simp [Instr.mayEmit, unrecognisedForms])  -- the 19 unrecognised words

/-- The cases of a next state. -/
theorem answers_of_exec {i : Instr} {s t : State} (h : exec i s = .next t) : Answers s i (.next t) :=
  h ▸ exec_answers i s

/-! ### The invariant -/

theorem Answers.inv {s t : State} {i : Instr} (ha : Answers s i (.next t)) (hs : s.Inv) (hlo : 2 ≤ s.pc.toNat)
    (hhi : s.pc.toNat ≤ 4096) : t.Inv := by
  cases ha with
  | raises r => exact { hs with halt_one := fun _ h => by cases h }
  | registers => exact { hs with }
  | pc p _ hp => exact { hs with pc_le := show p.toNat ≤ 4350 by omega }
  | index => exact { hs with }
  | memory m _ hm => exact { hs with mem_wf := hm hs.mem_wf }
  | emits => exact { hs with }
  | pops h =>
    have hslot := hs.slots ⟨s.sp.toNat, by omega⟩
    refine { hs with sp_le := ?_, pc_le := ?_ }
    · show (s.sp - 1#8).toNat ≤ 15
      bv_omega
    · show (s.stack[s.sp.toNat]'(by omega)).toNat ≤ 4350
      rcases hslot with h0 | ⟨-, hle⟩
      · exact (congrArg BitVec.toNat h0).le.trans (by decide)
      · exact le_trans hle (by decide)
  | pushes nnn h =>
    refine { hs with sp_le := ?_, slot_zero := ?_, slots := fun j => ?_, pc_le := ?_ }
    · show (s.sp + 1#8).toNat ≤ 15
      bv_omega
    · have hkeep : (s.stack.set (s.sp.toNat + 1) s.pc (by omega))[0] = s.stack[0] :=
        Vector.getElem_set_ne (by omega) (by omega) (by omega)
      exact hkeep.trans hs.slot_zero
    · by_cases hj : s.sp.toNat + 1 = j
      · exact .inr (by simp [← hj, hlo, hhi])
      · have hkeep : (s.stack.set (s.sp.toNat + 1) s.pc (by omega))[j] = s.stack[j] := Vector.getElem_set_ne _ _ hj
        simpa only [hkeep] using hs.slots j
    · show (zext12 nnn).toNat ≤ 4350
      rw [toNat_zext12]; omega
  | halts => exact { hs with halt_one := fun _ h => (RunStatus.halted.inj h).symm }

theorem inv_fetched {s : State} (w : Word) (hs : s.Inv) (hp : s.pc.toNat < 4095) : (s.fetched w).Inv :=
  { hs with pc_le := by rw [toNat_fetched_pc w hp]; omega }

/-- Settles O53: a fetch fault writes `status` only, and the handler begins with `pc` from 2 to 4096, the values a call may push. -/
theorem everyStepKeepsTheInvariant : Obligations.EveryStepKeepsTheInvariant := by
  intro s t hs h
  obtain ⟨-, ⟨-, rfl⟩ | ⟨w, hp, -, he⟩⟩ := step_cases h
  · exact { hs with halt_one := fun _ h => by cases h }
  · have hpc := toNat_fetched_pc w hp
    exact (answers_of_exec he).inv (inv_fetched w hs hp) (by omega) (by omega)

/-- Settles O52. -/
theorem resetMeetsTheInvariant : Obligations.ResetMeetsTheInvariant where
  sp_le := by decide
  slot_zero := by decide
  slots := by decide
  pc_le := by decide
  mem_wf := Memory.wf_nil
  halt_one _ h := by cases h

/-! ### When there is a next state -/

/-- Settles O38. -/
theorem stoppedEngineHasNoStep : Obligations.StoppedEngineHasNoStep :=
  fun _ _ h => (step_cases h).1

/-- Only where `sp` names no slot does a meaning fail to answer a next state. -/
theorem exec_next_of_sp_le (i : Instr) {s : State} (hsp : s.sp.toNat ≤ 15) : ∃ t, exec i s = .next t := by
  have ha := exec_answers i s
  generalize exec i s = r at ha ⊢
  cases ha with
  | noSlot _ _ h => omega
  | _ => exact ⟨_, rfl⟩

theorem step_of_fetch_error {s : State} (hr : s.status = .running) (hp : 4095 ≤ s.pc.toNat) :
    step s = .next (s.raise (.fetchOutOfBounds s.pc.toNat)) := by
  simp only [step, hr, fetchWord_error s hp]

/-- Settles O39. -/
theorem runningEngineAlwaysSteps : Obligations.RunningEngineAlwaysSteps := by
  intro s hr hsp
  by_cases hp : s.pc.toNat < 4095
  · rw [step_of_fetch hr hp]
    exact exec_next_of_sp_le _ hsp
  · exact ⟨_, step_of_fetch_error hr (by omega)⟩

/-- Settles O12: the last case of return and of call. -/
theorem noSlotAboveFifteen : Obligations.NoSlotAboveFifteen := by
  intro s hsp
  refine ⟨?_, fun nnn => ?_, fun hs => absurd hs.sp_le (by omega)⟩
  · obtain ⟨h, -⟩ | ⟨h, -⟩ | ⟨-, e⟩ := execRet_cases s
    · omega
    · omega
    · exact e
  · obtain ⟨h, -⟩ | ⟨h, -⟩ | ⟨-, e⟩ := execCall_cases nnn s
    · omega
    · omega
    · exact e

/-! ### Runs from a loaded image -/

/-- A run of `k + 1` cycles is a cycle and a run of `k` cycles. -/
theorem run_succ_eq_next {M : Host.Core} {k : Nat} {s t : M.State} (h : M.run (k + 1) s = .next t) :
    ∃ u, M.step s = .next u ∧ M.run k u = .next t := by
  unfold Host.Core.run at h
  split at h
  · next u he => exact ⟨u, he, h⟩
  · cases h
  · cases h

/-- What every step keeps, every run keeps. -/
theorem reaches_keeps {P : State → Prop} (hstep : ∀ s t, P s → step s = .next t → P t) :
    ∀ (k : Nat) {s t : State}, P s → s.reaches k t → P t
  | 0, _, _, hs, h => Host.Outcome.next.inj h ▸ hs
  | k + 1, s, t, hs, h => by
    obtain ⟨u, he, hu⟩ := run_succ_eq_next (M := core) h
    exact reaches_keeps hstep k (hstep s u hs he) hu

/-- An image that the load accepts fits above 512, so memory keeps its canonical form (R214, R215). -/
theorem inv_loadImage {img : List Byte} {s : State} (h : loadImage img State.reset = .ok s) : s.Inv := by
  unfold loadImage at h
  split at h
  · cases h
  · next hlen =>
    cases h
    refine { resetMeetsTheInvariant with mem_wf := Memory.wf_writeBytes _ img _ ?_ Memory.wf_nil }
    simp only [Config.maxImage, Config.progBase, Config.memSize] at hlen ⊢
    omega

/-- Settles O54: the invariant along the run, and the three values of `status` at its end. -/
theorem loadedRunsEndOnlyByHaltOrFault : Obligations.LoadedRunsEndOnlyByHaltOrFault := by
  intro img s t k hload hrun
  have ht : t.Inv := reaches_keeps everyStepKeepsTheInvariant k (inv_loadImage hload) hrun
  refine ⟨ht, ?_⟩
  cases hst : t.status with
  | running => exact .inl (runningEngineAlwaysSteps t hst ht.sp_le)
  | halted e => exact .inr (.inl (congrArg _ (ht.halt_one e hst)))
  | faulted c => exact .inr (.inr ⟨c, rfl⟩)

/-! ### Which instruction writes what -/

/-- Settles O44, case by case of what a meaning can answer: of the eight clauses only those of the pieces written say more than
"unchanged". -/
theorem onlyTheNamedInstructionsWrite : Obligations.OnlyTheNamedInstructionsWrite := by
  intro i s t h
  cases answers_of_exec h with
  | raises r hi =>
    exact ⟨.inl rfl, .inl rfl, .inl fun _ => rfl, .inl rfl, .inl rfl, .inr (.inr ⟨hi, _, rfl⟩), .inl rfl, fun _ => .inl rfl⟩
  | registers rs hi =>
    exact ⟨.inl rfl, .inl rfl, .inl fun _ => rfl, .inl rfl, .inl rfl, .inl rfl, .inl rfl, hi⟩
  | pc p hi =>
    exact ⟨.inl rfl, .inl rfl, .inl fun _ => rfl, .inl rfl, .inr hi, .inl rfl, .inl rfl, fun _ => .inl rfl⟩
  | index a hi =>
    exact ⟨.inl rfl, .inl rfl, .inl fun _ => rfl, .inr hi, .inl rfl, .inl rfl, .inl rfl, fun _ => .inl rfl⟩
  | memory m hi =>
    exact ⟨.inl rfl, .inl rfl, .inr hi, .inl rfl, .inl rfl, .inl rfl, .inl rfl, fun _ => .inl rfl⟩
  | emits e hi =>
    exact ⟨.inl rfl, .inl rfl, .inl fun _ => rfl, .inl rfl, .inl rfl, .inl rfl, .inr hi, fun _ => .inl rfl⟩
  | pops =>
    exact ⟨.inl rfl, .inr (.inl rfl), .inl fun _ => rfl, .inl rfl, .inr (.inl rfl), .inl rfl, .inl rfl, fun _ => .inl rfl⟩
  | pushes nnn =>
    exact ⟨.inr ⟨nnn, rfl⟩, .inr (.inr ⟨nnn, rfl⟩), .inl fun _ => rfl, .inl rfl,
      .inr (.inr (.inl ⟨nnn, .inr (.inl rfl)⟩)), .inl rfl, .inl rfl, fun _ => .inl rfl⟩
  | halts =>
    exact ⟨.inl rfl, .inl rfl, .inl fun _ => rfl, .inl rfl, .inl rfl, .inr (.inl ⟨rfl, rfl⟩), .inr (.inl rfl), fun _ => .inl rfl⟩

/-! ### Where `pc` goes -/

/-- The `pc` clause of O44 by itself. -/
theorem exec_pc_eq_or {i : Instr} {s t : State} (h : exec i s = .next t) : t.pc = s.pc ∨ i.mayWritePc := by
  obtain ⟨-, -, -, -, hpc, -⟩ := onlyTheNamedInstructionsWrite i s t h
  exact hpc

/-- A handler that ends Faulted has not written `pc` (R187). -/
theorem exec_pc_of_faulted {i : Instr} {s t : State} {c : FaultCause} (h : exec i s = .next t) (hs : s.status = .running)
    (ht : t.status = .faulted c) : t.pc = s.pc := by
  cases answers_of_exec h with
  | raises => rfl
  | halts => cases ht
  | _ => exact absurd (hs.symm.trans ht) (by simp)

/-- A return that does not fault goes to the address in the slot that `sp` names (R120). -/
theorem execRet_pc {s t : State} (h : execRet s = .next t) (ht : t.notFaulted) : s.stack[s.sp.toNat]? = some t.pc := by
  obtain ⟨-, e⟩ | ⟨hsp, e⟩ | ⟨-, e⟩ := execRet_cases s <;> rw [e] at h <;> cases h
  · exact absurd rfl (ht .stackUnderflow)
  · exact Vector.getElem?_eq_getElem (by omega)

/-- A call that does not fault goes to its operand (R122). -/
theorem execCall_pc {nnn : Addr12} {s t : State} (h : execCall nnn s = .next t) (ht : t.notFaulted) :
    t.pc.toNat = nnn.toNat := by
  obtain ⟨-, e⟩ | ⟨_, e⟩ | ⟨-, e⟩ := execCall_cases nnn s <;> rw [e] at h <;> cases h
  · exact absurd rfl (ht .stackOverflow)
  · exact toNat_zext12 nnn

/-- The skips, from a `pc` before the fetch. -/
theorem toNat_fetched_skipIf_pc {s : State} (w : Word) (c : Bool) (hp : s.pc.toNat < 4095) :
    ((s.fetched w).skipIf c).pc.toNat = s.pc.toNat + if c then 4 else 2 := by
  have hf := toNat_fetched_pc w hp
  rw [toNat_skipIf_pc c (by omega), hf]
  cases c <;> rfl

/-- Settles O41: the fetch adds 2, a fault leaves it at that, and the handlers that write `pc` each have a case. -/
theorem pcAfterEachCycle : Obligations.PcAfterEachCycle := by
  intro s t h
  obtain ⟨hr, ⟨hp, rfl⟩ | ⟨w, hp, hw, he⟩⟩ := step_cases h
  · exact ⟨fun _ => rfl, fun h => by omega, fun h => by omega⟩
  have hpc := toNat_fetched_pc w hp
  refine ⟨fun h => by omega, fun _ ⟨c, hc⟩ => ?_, fun _ ht => ?_⟩
  · rw [exec_pc_of_faulted he hr hc, hpc]
  rw [show s.nextWord = w from hw.symm]
  generalize decodeWord w = i at he
  split
  · exact (execRet_pc he ht :)
  · cases he; exact toNat_zext12 _                       -- jump
  · exact execCall_pc he ht
  · cases he; exact toNat_offsetTarget _ _               -- jump-offset
  · cases he; simp [toNat_fetched_skipIf_pc w _ hp]      -- skip-eq-imm
  · cases he; simp [toNat_fetched_skipIf_pc w _ hp]      -- skip-neq-imm
  · cases he; simp [toNat_fetched_skipIf_pc w _ hp]      -- skip-eq-reg
  · cases he; simp [toNat_fetched_skipIf_pc w _ hp]      -- skip-neq-reg
  · cases he                                             -- halt
    exact ⟨hpc, fun u hu => absurd (stoppedEngineHasNoStep _ u hu) (by simp)⟩
  · rcases exec_pc_eq_or he with e | hi                  -- every other instruction
    · rw [e, hpc]
    · simp_all [Instr.mayWritePc]

/-! ### The output is never read -/

/-- `s` with earlier events put before its output. -/
def State.prepend (earlier : List Event) (s : State) : State := { s with out := earlier ++ s.out }

/-- A function of states applied to the next state of an answer. -/
def onNext (f : State → State) : Result → Result
  | .next s => .next (f s)
  | .fault r => .fault r
  | .refused r => .refused r

section Prepend

variable (earlier : List Event) (s : State)

theorem emit_prepend (e : Event) : (s.prepend earlier).emit e = (s.emit e).prepend earlier := by
  simp [State.prepend, State.emit, List.append_assoc]

theorem fetched_prepend (w : Word) : (s.prepend earlier).fetched w = (s.fetched w).prepend earlier :=
  emit_prepend earlier (s.setPc (s.pc + 2#16)) (.trace w)

theorem skipIf_prepend (c : Bool) : (s.prepend earlier).skipIf c = (s.skipIf c).prepend earlier := by cases c <;> rfl

theorem settle_prepend (r : Except Raise State) :
    settle (s.prepend earlier) (r.map (·.prepend earlier)) = onNext (·.prepend earlier) (settle s r) := by
  cases r <;> rfl

/-- The range check reads `index` only. -/
theorem settle_checkRange_prepend (k : Nat) {b b' : Except Raise State} (hb : b' = b.map (·.prepend earlier)) :
    (settle (s.prepend earlier) do (s.prepend earlier).checkRange k; b') =
      onNext (·.prepend earlier) (settle s do s.checkRange k; b) := by
  have hc : (s.prepend earlier).checkRange k = s.checkRange k := rfl
  rw [hc, hb]
  cases s.checkRange k with
  | error r => rfl
  | ok => exact settle_prepend earlier s b

/-- A loop whose body commutes with `g` commutes with `g`. -/
theorem foldlM_map_comm {g : State → State} {f : State → Nibble → Except Raise State}
    (hf : ∀ t i, f (g t) i = (f t i).map g) : ∀ (l : List Nibble) (t : State), l.foldlM f (g t) = (l.foldlM f t).map g
  | [], _ => rfl
  | i :: l, t => by
    rw [List.foldlM_cons, List.foldlM_cons, hf]
    cases f t i with
    | error r => rfl
    | ok u => exact foldlM_map_comm hf l u

theorem memWrite_prepend (a : Nat) (v : Byte) :
    (s.prepend earlier).memWrite a v = (s.memWrite a v).map (·.prepend earlier) := by
  unfold State.memWrite
  split <;> rfl

theorem storeRegs_prepend (x : Nibble) :
    (s.prepend earlier).storeRegs x = (s.storeRegs x).map (·.prepend earlier) :=
  foldlM_map_comm (f := fun t i => t.memWrite (s.effAddr i.toNat) (s.reg i)) (fun t _ => memWrite_prepend earlier t _ _) _ s

theorem loadRegs_prepend (x : Nibble) :
    (s.prepend earlier).loadRegs x = (s.loadRegs x).map (·.prepend earlier) := by
  refine foldlM_map_comm (f := fun t i => do return t.setReg i (← s.memRead (s.effAddr i.toNat))) (fun t i => ?_) _ s
  cases s.memRead (s.effAddr i.toNat) <;> rfl

theorem storeDigits_prepend (v : Byte) :
    (s.prepend earlier).storeDigits v = (s.storeDigits v).map (·.prepend earlier) := by
  have haddr : ∀ k, (s.prepend earlier).effAddr k = s.effAddr k := fun _ => rfl
  simp only [State.storeDigits, haddr, memWrite_prepend]
  cases s.memWrite (s.effAddr 0) (bcdDigits v).1 with
  | error r => rfl
  | ok s1 =>
    simp only [Except.map, bind, Except.bind, memWrite_prepend]
    cases s1.memWrite (s.effAddr 1) (bcdDigits v).2.1 with
    | error r => rfl
    | ok s2 => exact memWrite_prepend earlier s2 _ _

theorem execAddIndex_prepend (x : Nibble) :
    execAddIndex x (s.prepend earlier) = onNext (·.prepend earlier) (execAddIndex x s) := by
  rw [execAddIndex, execAddIndex, ← settle_prepend, apply_ite (Except.map _)]
  rfl

theorem execPrintMem_prepend (x : Nibble) :
    execPrintMem x (s.prepend earlier) = onNext (·.prepend earlier) (execPrintMem x s) := by
  refine settle_checkRange_prepend earlier s x.toNat ?_
  have hb : (s.prepend earlier).readBlock x = s.readBlock x := rfl
  rw [hb]
  cases s.readBlock x with
  | error r => rfl
  | ok bs => exact congrArg Except.ok (emit_prepend earlier s _)

theorem execRet_prepend : execRet (s.prepend earlier) = onNext (·.prepend earlier) (execRet s) := by
  have hsp : (s.prepend earlier).sp = s.sp := rfl
  have hslot : (s.prepend earlier).slot? s.sp.toNat = s.slot? s.sp.toNat := rfl
  simp only [execRet, hsp, hslot]
  split
  · rfl
  · cases s.slot? s.sp.toNat <;> rfl

theorem setSlot?_prepend (j : Nat) (v : Word) :
    (s.prepend earlier).setSlot? j v = (s.setSlot? j v).map (·.prepend earlier) := by
  unfold State.setSlot?
  split <;> rfl

theorem execCall_prepend (nnn : Addr12) :
    execCall nnn (s.prepend earlier) = onNext (·.prepend earlier) (execCall nnn s) := by
  have hsp : (s.prepend earlier).sp = s.sp := rfl
  have hpc : (s.prepend earlier).pc = s.pc := rfl
  simp only [execCall, hsp, hpc, setSlot?_prepend]
  split
  · rfl
  · cases s.setSlot? (s.sp.toNat + 1) s.pc <;> rfl

/-- Whatever the instruction, its meaning does the same after earlier events. -/
theorem exec_prepend (i : Instr) : exec i (s.prepend earlier) = onNext (·.prepend earlier) (exec i s) := by
  cases i with
  | ret => exact execRet_prepend earlier s
  | call nnn => exact execCall_prepend earlier s nnn
  | addIndex x => exact execAddIndex_prepend earlier s x
  | bcd x => exact settle_checkRange_prepend earlier s 2 (storeDigits_prepend earlier s (s.reg x))
  | storeBlock x => exact settle_checkRange_prepend earlier s x.toNat (storeRegs_prepend earlier s x)
  | loadBlock x => exact settle_checkRange_prepend earlier s x.toNat (loadRegs_prepend earlier s x)
  | printMem x => exact execPrintMem_prepend earlier s x
  | skipEqImm x kk => exact congrArg Host.Outcome.next (skipIf_prepend earlier s _)
  | skipNeqImm x kk => exact congrArg Host.Outcome.next (skipIf_prepend earlier s _)
  | skipEqReg x y => exact congrArg Host.Outcome.next (skipIf_prepend earlier s _)
  | skipNeqReg x y => exact congrArg Host.Outcome.next (skipIf_prepend earlier s _)
  | jump | jumpOffset | loadIndex | loadImm | addImm | move | orReg | andReg | xorReg | addReg | subReg | subnReg
  | shiftRight | shiftLeft => rfl
  | printRegs x => exact congrArg Host.Outcome.next (emit_prepend earlier s _)
  | halt =>
    exact congrArg (fun t : State => Host.Outcome.next { t with status := .halted 1 }) (emit_prepend earlier s .haltNotice)
  | _ w => exact congrArg Host.Outcome.next (emit_prepend earlier s (.diagnostic w))  -- the 19 unrecognised words

theorem step_prepend : step (s.prepend earlier) = onNext (·.prepend earlier) (step s) := by
  have hst : (s.prepend earlier).status = s.status := rfl
  have hf : (s.prepend earlier).fetchWord (s.prepend earlier).pc.toNat = s.fetchWord s.pc.toNat := rfl
  simp only [step, hst, hf]
  cases s.status with
  | halted e => rfl
  | faulted c => rfl
  | running =>
    cases s.fetchWord s.pc.toNat with
    | error r => rfl
    | ok w => exact (congrArg _ (fetched_prepend earlier s w)).trans (exec_prepend earlier _ _)

end Prepend

/-- Settles O43: the cycle commutes with putting earlier events before the output. -/
theorem outputIsNeverRead : Obligations.OutputIsNeverRead := by
  intro s t earlier h
  exact (step_prepend earlier s).trans (congrArg _ h)

end Sys2Proof.Machine

/-!
PROOFS. Memory as instructions and the fetch see it: the address a range check names (O28), a fetch at any alignment (O36), and code
stored by one cycle and fetched by the next (O49).
-/

namespace Sys2Proof.Machine

/-- Settles O28: the address named is the larger of `index`, where the range begins, and 4096, the first address above memory. -/
theorem rangeCheckNamesTheLowestAddress : Obligations.RangeCheckNamesTheLowestAddress := by
  intro s k
  refine ⟨checkRange_ok s, fun h => ⟨_, checkRange_error s h, ?_, le_max_left _ _, ?_, fun b hb hi _ => max_le hi hb⟩⟩
  · exact lt_max_of_lt_right (by decide)
  · exact max_le (Nat.le_add_right _ _) h

/-- Settles O36: the word fetched is the pair of bytes, and its value does not depend on the parity of the address. -/
theorem fetchNeedsNoAlignment : Obligations.FetchNeedsNoAlignment :=
  fun s _ => ⟨fun h => ⟨_, fetchWord_ok s h, toNat_fromBytes _ _⟩, fetchWord_error s⟩

/-- store-block in range writes memory only, and each register it stores reads back from its effective address (R163). -/
theorem execStoreBlock_in_range {x : Nibble} {s t : State} (h : execStoreBlock x s = .next t)
    (hx : s.index.toNat + x.toNat ≤ 4095) :
    ∃ m : Memory, t = { s with mem := m } ∧ ∀ i : Nibble, i.toNat ≤ x.toNat → m.read (s.effAddr i.toNat) = s.reg i := by
  obtain ⟨hout, -⟩ | ⟨-, m, e, -, hr⟩ := execStoreBlock_cases x s
  · omega
  refine ⟨m, Host.Outcome.next.inj (h.symm.trans e), fun i hi => ?_⟩
  have hin : s.index.toNat ≤ s.effAddr i.toNat ∧ s.effAddr i.toNat ≤ s.index.toNat + x.toNat := by
    simp only [State.effAddr]; omega
  rw [hr, if_pos hin]
  simp [State.effAddr]

/-- The word the next fetch reads, from the two bytes at `pc`. -/
theorem nextWord_eq {s : State} {p : Nat} {b0 b1 : Byte} (hp : s.pc.toNat = p) (h0 : s.mem.read p = b0)
    (h1 : s.mem.read (p + 1) = b1) : s.nextWord = fromBytes b0 b1 := by
  rw [State.nextWord, hp, h0, h1]

/-- `step_of_fetch`, with the fetched word named as the statements name it. -/
theorem step_of_nextWord {s : State} (hr : s.status = .running) (hp : s.pc.toNat < 4095) :
    step s = exec (decodeWord s.nextWord) (s.fetched s.nextWord) := step_of_fetch hr hp

/-- Settles O49: the stored bytes are those at the advanced `pc` and after it, and the last of them is at most 4095, so the next fetch
is in bounds. -/
theorem storedCodeIsFetchedNext : Obligations.StoredCodeIsFetchedNext := by
  intro s t x k k' hp hdec hstep hx hk' hk'x hk
  have hr : s.status = .running := stoppedEngineHasNoStep s t hstep
  rw [step_of_nextWord hr (by omega), hdec] at hstep
  obtain ⟨m, rfl, hm⟩ := execStoreBlock_in_range hstep hx
  have hpc : (s.fetched s.nextWord).pc.toNat = s.pc.toNat + 2 := toNat_fetched_pc s.nextWord (by omega)
  have hk1 : s.effAddr k'.toNat = s.pc.toNat + 2 + 1 := by
    simp only [State.effAddr] at hk ⊢; omega
  have hhigh : m.read (s.pc.toNat + 2) = s.reg k := hk ▸ hm k (by omega)
  have hlow : m.read (s.pc.toNat + 2 + 1) = s.reg k' := hk1 ▸ hm k' hk'x
  have hnext : State.nextWord { s.fetched s.nextWord with mem := m } = fromBytes (s.reg k) (s.reg k') :=
    nextWord_eq hpc hhigh hlow
  have hfetch : (s.fetched s.nextWord).pc.toNat < 4095 := by
    simp only [State.effAddr] at hk1; omega
  exact ⟨hnext, hnext ▸ step_of_nextWord (s := { s.fetched s.nextWord with mem := m }) hr hfetch⟩

end Sys2Proof.Machine

/-!
PROOFS. The decoder and the encoder: the arms of the dispatch as equations, decode of encode (O3), the row of a word (O4), the
unrecognised words (O5, O33), the bits that do not choose (O6); and that every instruction completes (O40).
-/

namespace Sys2Proof

/-! ### The arms of the dispatch, by `opcode` and `n` (R109 to R111) -/

section Arms

variable {w : Word}

theorem decodeWord_ret (ho : fieldOpcode w = 0x0#4) : decodeWord w = .ret := by
  simp only [decodeWord, ho]

theorem decodeWord_jump (ho : fieldOpcode w = 0x1#4) : decodeWord w = .jump (fieldNNN w) := by
  simp only [decodeWord, ho]

theorem decodeWord_call (ho : fieldOpcode w = 0x2#4) : decodeWord w = .call (fieldNNN w) := by
  simp only [decodeWord, ho]

theorem decodeWord_skipEqImm (ho : fieldOpcode w = 0x3#4) : decodeWord w = .skipEqImm (fieldX w) (fieldKK w) := by
  simp only [decodeWord, ho]

theorem decodeWord_skipNeqImm (ho : fieldOpcode w = 0x4#4) : decodeWord w = .skipNeqImm (fieldX w) (fieldKK w) := by
  simp only [decodeWord, ho]

theorem decodeWord_skipEqReg (ho : fieldOpcode w = 0x5#4) : decodeWord w = .skipEqReg (fieldX w) (fieldY w) := by
  simp only [decodeWord, ho]

theorem decodeWord_loadImm (ho : fieldOpcode w = 0x6#4) : decodeWord w = .loadImm (fieldX w) (fieldKK w) := by
  simp only [decodeWord, ho]

theorem decodeWord_addImm (ho : fieldOpcode w = 0x7#4) : decodeWord w = .addImm (fieldX w) (fieldKK w) := by
  simp only [decodeWord, ho]

theorem decodeWord_opcode_8 (ho : fieldOpcode w = 0x8#4) : decodeWord w = decodeFamily8 w := by
  simp only [decodeWord, ho]

theorem decodeWord_skipNeqReg (ho : fieldOpcode w = 0x9#4) : decodeWord w = .skipNeqReg (fieldX w) (fieldY w) := by
  simp only [decodeWord, ho]

theorem decodeWord_loadIndex (ho : fieldOpcode w = 0xA#4) : decodeWord w = .loadIndex (fieldNNN w) := by
  simp only [decodeWord, ho]

theorem decodeWord_jumpOffset (ho : fieldOpcode w = 0xB#4) : decodeWord w = .jumpOffset (fieldNNN w) := by
  simp only [decodeWord, ho]

theorem decodeWord_addIndex (ho : fieldOpcode w = 0xC#4) : decodeWord w = .addIndex (fieldX w) := by
  simp only [decodeWord, ho]

theorem decodeWord_bcd (ho : fieldOpcode w = 0xD#4) : decodeWord w = .bcd (fieldX w) := by
  simp only [decodeWord, ho]

theorem decodeWord_storeBlock (ho : fieldOpcode w = 0xE#4) : decodeWord w = .storeBlock (fieldX w) := by
  simp only [decodeWord, ho]

theorem decodeWord_move (ho : fieldOpcode w = 0x8#4) (hn : fieldN w = 0x0#4) :
    decodeWord w = .move (fieldX w) (fieldY w) := by
  simp only [decodeWord_opcode_8 ho, decodeFamily8, hn]

theorem decodeWord_orReg (ho : fieldOpcode w = 0x8#4) (hn : fieldN w = 0x1#4) :
    decodeWord w = .orReg (fieldX w) (fieldY w) := by
  simp only [decodeWord_opcode_8 ho, decodeFamily8, hn]

theorem decodeWord_andReg (ho : fieldOpcode w = 0x8#4) (hn : fieldN w = 0x2#4) :
    decodeWord w = .andReg (fieldX w) (fieldY w) := by
  simp only [decodeWord_opcode_8 ho, decodeFamily8, hn]

theorem decodeWord_xorReg (ho : fieldOpcode w = 0x8#4) (hn : fieldN w = 0x3#4) :
    decodeWord w = .xorReg (fieldX w) (fieldY w) := by
  simp only [decodeWord_opcode_8 ho, decodeFamily8, hn]

theorem decodeWord_addReg (ho : fieldOpcode w = 0x8#4) (hn : fieldN w = 0x4#4) :
    decodeWord w = .addReg (fieldX w) (fieldY w) := by
  simp only [decodeWord_opcode_8 ho, decodeFamily8, hn]

theorem decodeWord_subReg (ho : fieldOpcode w = 0x8#4) (hn : fieldN w = 0x5#4) :
    decodeWord w = .subReg (fieldX w) (fieldY w) := by
  simp only [decodeWord_opcode_8 ho, decodeFamily8, hn]

theorem decodeWord_shiftRight (ho : fieldOpcode w = 0x8#4) (hn : fieldN w = 0x6#4) :
    decodeWord w = .shiftRight (fieldX w) := by
  simp only [decodeWord_opcode_8 ho, decodeFamily8, hn]

theorem decodeWord_subnReg (ho : fieldOpcode w = 0x8#4) (hn : fieldN w = 0x7#4) :
    decodeWord w = .subnReg (fieldX w) (fieldY w) := by
  simp only [decodeWord_opcode_8 ho, decodeFamily8, hn]

theorem decodeWord_shiftLeft (ho : fieldOpcode w = 0x8#4) (hn : fieldN w = 0xE#4) :
    decodeWord w = .shiftLeft (fieldX w) := by
  simp only [decodeWord_opcode_8 ho, decodeFamily8, hn]

theorem decodeWord_loadBlock (ho : fieldOpcode w = 0xF#4) (hn : fieldN w = 0x0#4) :
    decodeWord w = .loadBlock (fieldX w) := by
  simp only [decodeWord_opcode_F ho, decodeFamilyF, hn]

theorem decodeWord_printRegs (ho : fieldOpcode w = 0xF#4) (hn : fieldN w = 0x1#4) :
    decodeWord w = .printRegs (fieldX w) := by
  simp only [decodeWord_opcode_F ho, decodeFamilyF, hn]

theorem decodeWord_printMem (ho : fieldOpcode w = 0xF#4) (hn : fieldN w = 0x2#4) :
    decodeWord w = .printMem (fieldX w) := by
  simp only [decodeWord_opcode_F ho, decodeFamilyF, hn]

theorem decodeWord_halt (ho : fieldOpcode w = 0xF#4) (hn : fieldN w = 0xF#4) : decodeWord w = .halt := by
  rw [decodeWord_opcode_F ho, decodeFamilyF_n_F hn]

end Arms

/-! ### The unrecognised forms (R79) -/

theorem subOpcodeIs_iff {pat w : Word} (hp : pat &&& 0xF00F#16 = pat) :
    subOpcodeIs pat w = true ↔ fieldOpcode w = fieldOpcode pat ∧ fieldN w = fieldN pat := by
  rw [← mask_opcode_n_iff w pat hp, subOpcodeIs, beq_iff_eq]

/-- A word that an unrecognised form admits decodes to that form: `opcode` and `n` choose the arm. -/
theorem decodeWord_of_mem_unrecognisedForms {c : Word → Instr} (hc : c ∈ Machine.unrecognisedForms) {w : Word}
    (hw : (c w).wellFormed = true) : decodeWord w = c w := by
  fin_cases hc
  all_goals
    obtain ⟨ho, hn⟩ := (subOpcodeIs_iff (by decide)).mp hw
    simp only [decodeWord, decodeFamily8, decodeFamilyF, ho, hn]
    rfl

/-! ### Decode of encode -/

/-- The arm's equation, and then the operands as fields of the encoded word (the `simp` lemmas of Laws/Decode). -/
theorem decodeWord_encode {i : Instr} (hi : i.wellFormed = true) : decodeWord (encode i) = i := by
  cases i with
  | ret => exact decodeWord_ret rfl
  | jump nnn => simp [encode, decodeWord_jump]
  | call nnn => simp [encode, decodeWord_call]
  | skipEqImm x kk => simp [encode, decodeWord_skipEqImm]
  | skipNeqImm x kk => simp [encode, decodeWord_skipNeqImm]
  | skipEqReg x y => simp [encode, decodeWord_skipEqReg]
  | loadImm x kk => simp [encode, decodeWord_loadImm]
  | addImm x kk => simp [encode, decodeWord_addImm]
  | move x y => simp [encode, decodeWord_move]
  | orReg x y => simp [encode, decodeWord_orReg]
  | andReg x y => simp [encode, decodeWord_andReg]
  | xorReg x y => simp [encode, decodeWord_xorReg]
  | addReg x y => simp [encode, decodeWord_addReg]
  | subReg x y => simp [encode, decodeWord_subReg]
  | shiftRight x => simp [encode, decodeWord_shiftRight]
  | subnReg x y => simp [encode, decodeWord_subnReg]
  | shiftLeft x => simp [encode, decodeWord_shiftLeft]
  | skipNeqReg x y => simp [encode, decodeWord_skipNeqReg]
  | loadIndex nnn => simp [encode, decodeWord_loadIndex]
  | jumpOffset nnn => simp [encode, decodeWord_jumpOffset]
  | addIndex x => simp [encode, decodeWord_addIndex]
  | bcd x => simp [encode, decodeWord_bcd]
  | storeBlock x => simp [encode, decodeWord_storeBlock]
  | loadBlock x => simp [encode, decodeWord_loadBlock]
  | printRegs x => simp [encode, decodeWord_printRegs]
  | printMem x => simp [encode, decodeWord_printMem]
  | halt => exact decodeWord_halt rfl rfl
  | _ => exact decodeWord_of_mem_unrecognisedForms (by simp [Machine.unrecognisedForms]) hi  -- the 19 unrecognised words

/-- Construction undoes serialisation (R101). -/
@[simp] theorem fromBytes_toBytes (w : Word) : fromBytes (toBytes w).1 (toBytes w).2 = w := by
  obtain ⟨hhigh, hlow⟩ := toNat_toBytes w
  apply BitVec.eq_of_toNat_eq
  rw [toNat_fromBytes, hhigh, hlow]; omega

theorem decode_encodeBytes (i : Instr) (rest : List Byte) :
    decode (encodeBytes i ++ rest) = .ok (decodeWord (encode i), rest) := by
  simp [encodeBytes, decode]

/-- Settles O3: the canonical word has the `opcode` and `n` of the instruction's arm and its operands as fields. -/
theorem decodeOfEncodeIsIdentity : Obligations.DecodeOfEncodeIsIdentity := by
  intro i hi
  refine ⟨decodeWord_encode hi, fun rest => ?_⟩
  rw [decode_encodeBytes, decodeWord_encode hi]

/-! ### The row of a word (R76, R79) -/

theorem takes_iff {r : OpcodeRow} {w : Word} : r.takes w = true ↔ w &&& r.mask = r.pat := beq_iff_eq

/-- Family 8 chooses the row by `n`; an unrecognised word is admitted by its own row. -/
theorem decodeFamily8_wellFormed_row {w : Word} (ho : fieldOpcode w = 0x8#4) :
    (decodeFamily8 w).wellFormed = true ∧ (decodeFamily8 w).row = ⟨encodeXYN 0x8 0 0 (fieldN w), 0xF00F#16⟩ := by
  have hw : w &&& 0xF00F#16 = encodeXYN 0x8 0 0 (fieldN w) := (and_mask_opcode_n w _ _).mpr ⟨ho, rfl⟩
  obtain hn | hn | hn | hn | hn | hn | hn | hn | hn | hn | hn | hn | hn | hn | hn | hn := nibble_cases (fieldN w)
  all_goals simp [decodeFamily8, hn, Instr.wellFormed, Instr.row, subOpcodeIs, hw, encodeXYN]

/-- The same for family F. -/
theorem decodeFamilyF_wellFormed_row {w : Word} (ho : fieldOpcode w = 0xF#4) :
    (decodeFamilyF w).wellFormed = true ∧ (decodeFamilyF w).row = ⟨encodeXYN 0xF 0 0 (fieldN w), 0xF00F#16⟩ := by
  have hw : w &&& 0xF00F#16 = encodeXYN 0xF 0 0 (fieldN w) := (and_mask_opcode_n w _ _).mpr ⟨ho, rfl⟩
  obtain hn | hn | hn | hn | hn | hn | hn | hn | hn | hn | hn | hn | hn | hn | hn | hn := nibble_cases (fieldN w)
  all_goals simp [decodeFamilyF, hn, Instr.wellFormed, Instr.row, subOpcodeIs, hw, encodeXYN]

/-- Outside families 8 and F the `opcode` alone chooses the row, and every operand is admitted (R74, R75). -/
theorem decodeWord_wellFormed_row_of_ne {w : Word} (h8 : fieldOpcode w ≠ 0x8#4) (hF : fieldOpcode w ≠ 0xF#4) :
    (decodeWord w).wellFormed = true ∧ (decodeWord w).row = ⟨encodeXYN (fieldOpcode w) 0 0 0, 0xF000#16⟩ := by
  obtain ho | ho | ho | ho | ho | ho | ho | ho | ho | ho | ho | ho | ho | ho | ho | ho := nibble_cases (fieldOpcode w)
  all_goals simp [decodeWord, ho, Instr.wellFormed, Instr.row, encodeXYN] at h8 hF ⊢

/-- The decoder answers a well-formed instruction, of a row that takes the word. -/
theorem decodeWord_wellFormed_takes (w : Word) :
    (decodeWord w).wellFormed = true ∧ (decodeWord w).row.takes w = true := by
  rw [takes_iff]
  by_cases h8 : fieldOpcode w = 0x8#4
  · obtain ⟨hwf, hrow⟩ := decodeFamily8_wellFormed_row h8
    rw [decodeWord_opcode_8 h8, hrow]
    exact ⟨hwf, (and_mask_opcode_n w _ _).mpr ⟨h8, rfl⟩⟩
  by_cases hF : fieldOpcode w = 0xF#4
  · obtain ⟨hwf, hrow⟩ := decodeFamilyF_wellFormed_row hF
    rw [decodeWord_opcode_F hF, hrow]
    exact ⟨hwf, (and_mask_opcode_n w _ _).mpr ⟨hF, rfl⟩⟩
  · obtain ⟨hwf, hrow⟩ := decodeWord_wellFormed_row_of_ne h8 hF
    rw [hrow]
    exact ⟨hwf, (and_mask_opcode w _).mpr rfl⟩

theorem decodeWord_wellFormed (w : Word) : (decodeWord w).wellFormed = true := (decodeWord_wellFormed_takes w).1

theorem decodeWord_row_takes (w : Word) : (decodeWord w).row.takes w = true := (decodeWord_wellFormed_takes w).2

theorem row_mem_opcodeTable (i : Instr) : i.row ∈ opcodeTable := by
  cases i <;> exact List.contains_iff_mem.mp rfl

theorem opcodeTable_nodup : opcodeTable.Nodup := by decide

/-- Two rows of the table that agree on the bits both test are the same row. -/
theorem eq_of_agree_of_mem_opcodeTable :
    ∀ r ∈ opcodeTable, ∀ q ∈ opcodeTable, r.pat &&& q.mask = q.pat &&& r.mask → r = q := by
  decide

/-- No word is taken by two rows: both would agree with it on the bits both test. -/
theorem eq_of_takes {r q : OpcodeRow} {w : Word} (hr : r ∈ opcodeTable) (hq : q ∈ opcodeTable)
    (hrw : r.takes w = true) (hqw : q.takes w = true) : r = q := by
  refine eq_of_agree_of_mem_opcodeTable r hr q hq ?_
  rw [← takes_iff.mp hrw, ← takes_iff.mp hqw, BitVec.and_assoc, BitVec.and_assoc, BitVec.and_comm r.mask]

theorem filter_takes_eq_singleton {r : OpcodeRow} {w : Word} (hr : r ∈ opcodeTable) (hrw : r.takes w = true) :
    opcodeTable.filter (fun q => q.takes w) = [r] := by
  have honly : ∀ q ∈ opcodeTable, q.takes w = (q == r) := fun q hq => by
    rw [Bool.eq_iff_iff, beq_iff_eq]
    exact ⟨fun hqw => eq_of_takes hq hr hqw hrw, fun h => h ▸ hrw⟩
  rw [List.filter_congr honly, List.filter_beq, List.count_eq_one_of_mem opcodeTable_nodup hr, List.replicate_one]

/-- Settles O4: the decoded instruction's row is of the table and takes the word, and no two rows take one word. -/
theorem oneTableRowTakesEachWord : Obligations.OneTableRowTakesEachWord :=
  fun w => ⟨decodeWord_wellFormed w, filter_takes_eq_singleton (row_mem_opcodeTable _) (decodeWord_row_takes w)⟩

/-! ### The unrecognised words (R79) -/

/-- A word decodes to an unrecognised form exactly when the form admits it: decode of encode one way, the decoder's answer being well
formed the other. -/
theorem decodeWord_eq_iff_wellFormed {c : Word → Instr} (hc : c ∈ Machine.unrecognisedForms) {w : Word} :
    decodeWord w = c w ↔ (c w).wellFormed = true :=
  ⟨fun h => h ▸ decodeWord_wellFormed w, decodeWord_of_mem_unrecognisedForms hc⟩

/-- Settles O5: the forms that admit a word, with the `opcode` and `n` of each. -/
theorem unrecognisedWordsAreExactlyThese : Obligations.UnrecognisedWordsAreExactlyThese := by
  intro w
  rw [exists_congr fun c => and_congr_right fun hc => decodeWord_eq_iff_wellFormed hc (w := w)]
  simp only [Machine.unrecognisedForms, List.mem_cons, List.not_mem_nil, or_false, Instr.wellFormed, exists_eq_or_imp,
    BitVec.reduceAnd, subOpcodeIs_iff, ↓existsAndEq, true_and, and_or_left, or_assoc]
  exact Iff.rfl  -- the `opcode` and `n` of the nineteen patterns, evaluated

/-! ### The bits that do not choose (R77) -/

section Masks

variable {v w : Word}

theorem and_xy_eq_iff : v &&& 0xFFF0#16 = w &&& 0xFFF0#16 ↔
    fieldOpcode v = fieldOpcode w ∧ fieldX v = fieldX w ∧ fieldY v = fieldY w := by
  rw [show (0xFFF0#16 : Word) = encodeXYN 0xF 0xF 0xF 0 from rfl, and_mask_fields, and_mask_fields, encodeXYN_inj]
  simp [and_allOnes4]

theorem and_x_eq_iff : v &&& 0xFF00#16 = w &&& 0xFF00#16 ↔ fieldOpcode v = fieldOpcode w ∧ fieldX v = fieldX w := by
  rw [show (0xFF00#16 : Word) = encodeXYN 0xF 0xF 0 0 from rfl, and_mask_fields, and_mask_fields, encodeXYN_inj]
  simp [and_allOnes4]

theorem and_xn_eq_iff : v &&& 0xFF0F#16 = w &&& 0xFF0F#16 ↔
    fieldOpcode v = fieldOpcode w ∧ fieldX v = fieldX w ∧ fieldN v = fieldN w := by
  rw [show (0xFF0F#16 : Word) = encodeXYN 0xF 0xF 0 0xF from rfl, and_mask_fields, and_mask_fields, encodeXYN_inj]
  simp [and_allOnes4]

theorem and_n_eq_iff : v &&& 0xF00F#16 = w &&& 0xF00F#16 ↔ fieldOpcode v = fieldOpcode w ∧ fieldN v = fieldN w := by
  rw [show (0xF00F#16 : Word) = encodeXYN 0xF 0 0 0xF from rfl, and_mask_fields, and_mask_fields, encodeXYN_inj]
  simp [and_allOnes4]

end Masks

/-- Settles O6, arm by arm: the bits that count fix the arm and its operands. -/
theorem ignoredBitsDoNotChoose : Obligations.IgnoredBitsDoNotChoose := by
  intro v w
  refine ⟨fun hv hw => ?_, fun hv h => ?_, fun hv h => ?_, fun hv hn h => ?_, fun hv hn h => ?_, fun hv h => ?_,
    fun hv hn h => ?_⟩
  · rw [decodeWord_ret hv, decodeWord_ret hw]
  · obtain ⟨ho, hx, hy⟩ := and_xy_eq_iff.mp h
    obtain hv | hv := hv
    · rw [decodeWord_skipEqReg hv, decodeWord_skipEqReg (ho ▸ hv), hx, hy]
    · rw [decodeWord_skipNeqReg hv, decodeWord_skipNeqReg (ho ▸ hv), hx, hy]
  · obtain ⟨ho, hx⟩ := and_x_eq_iff.mp h
    obtain hv | hv | hv := hv
    · rw [decodeWord_addIndex hv, decodeWord_addIndex (ho ▸ hv), hx]
    · rw [decodeWord_bcd hv, decodeWord_bcd (ho ▸ hv), hx]
    · rw [decodeWord_storeBlock hv, decodeWord_storeBlock (ho ▸ hv), hx]
  · obtain ⟨ho, hx, hn'⟩ := and_xn_eq_iff.mp h
    obtain hn | hn := hn
    · rw [decodeWord_shiftRight hv hn, decodeWord_shiftRight (ho ▸ hv) (hn' ▸ hn), hx]
    · rw [decodeWord_shiftLeft hv hn, decodeWord_shiftLeft (ho ▸ hv) (hn' ▸ hn), hx]
  · obtain ⟨ho, hx, hn'⟩ := and_xn_eq_iff.mp h
    obtain hn | hn | hn := hn
    · rw [decodeWord_loadBlock hv hn, decodeWord_loadBlock (ho ▸ hv) (hn' ▸ hn), hx]
    · rw [decodeWord_printRegs hv hn, decodeWord_printRegs (ho ▸ hv) (hn' ▸ hn), hx]
    · rw [decodeWord_printMem hv hn, decodeWord_printMem (ho ▸ hv) (hn' ▸ hn), hx]
  · obtain ⟨ho, -, hn⟩ := and_xn_eq_iff.mp h
    have hw : fieldOpcode w = 0xF#4 := ho ▸ hv
    obtain ⟨-, hrowv⟩ := decodeFamilyF_wellFormed_row hv
    obtain ⟨-, hroww⟩ := decodeFamilyF_wellFormed_row hw
    rw [decodeWord_opcode_F hv, decodeWord_opcode_F hw, hrowv, hroww, hn]
  · obtain ⟨ho, hn'⟩ := and_n_eq_iff.mp h
    rw [decodeWord_halt hv hn, decodeWord_halt (ho ▸ hv) (hn' ▸ hn)]

end Sys2Proof

namespace Sys2Proof.Machine

/-- Settles O40: of the cases of `Answers` only the last is no next state. -/
theorem everyInstructionCompletes : Obligations.EveryInstructionCompletes := by
  intro i s
  have ha := exec_answers i s
  generalize exec i s = r at ha ⊢
  cases ha with
  | noSlot k hi hsp => exact .inr ⟨hsp, hi, k, rfl⟩
  | _ => exact .inl ⟨_, rfl⟩

/-! ### What an unrecognised word does (R112) -/

theorem exec_of_mem_unrecognisedForms {c : Word → Instr} (hc : c ∈ unrecognisedForms) (w : Word) (s : State) :
    exec (c w) s = .next (s.emit (.diagnostic w)) := by
  fin_cases hc <;> rfl

theorem sameButOut_emit (s : State) (e : Event) : s.sameButOut (s.emit e) :=
  ⟨s.emit_reg e, s.emit_index e, s.emit_pc e, ⟨s.emit_sp e, s.emit_stack e⟩, fun _ => rfl, s.emit_status e⟩

/-- Settles O33: each of the 19 meanings is the one shared `unrecognisedWord`. -/
theorem unrecognisedWordsOnlyReport : Obligations.UnrecognisedWordsOnlyReport :=
  fun _ hc w s => ⟨_, exec_of_mem_unrecognisedForms hc w s, s.emit_out _, sameButOut_emit s _⟩

end Sys2Proof.Machine

/-!
PROOFS. The laws of the decoder block (R101, O1): reassembly and overlap of the field views, and the round trip of two bytes.
-/

namespace Sys2Proof

/-! ### Reassembly and overlap (R101, laws 2 and 4) -/

section Views

variable (w : Word)

theorem toNat_eq_opcode_x_y_n : w.toNat =
    (fieldOpcode w).toNat * 4096 + (fieldX w).toNat * 256 + (fieldY w).toNat * 16 + (fieldN w).toNat := by
  rw [← toNat_encodeXYN, ← word_eq_nibbles]

theorem toNat_eq_opcode_x_kk : w.toNat = (fieldOpcode w).toNat * 4096 + (fieldX w).toNat * 256 + (fieldKK w).toNat := by
  rw [← toNat_encodeXKK, encodeXKK_fields rfl]

theorem toNat_eq_opcode_nnn : w.toNat = (fieldOpcode w).toNat * 4096 + (fieldNNN w).toNat := by
  rw [← toNat_encodeNNN, encodeNNN_fields rfl]

/-- Both reassemblies that begin with `opcode` and `x` give the word. -/
theorem toNat_fieldKK_eq_y_n : (fieldKK w).toNat = (fieldY w).toNat * 16 + (fieldN w).toNat := by
  have hxyn := toNat_eq_opcode_x_y_n w
  have hxkk := toNat_eq_opcode_x_kk w
  omega

/-- Both reassemblies that end in a wider view give the word. -/
theorem toNat_fieldNNN_eq_x_kk : (fieldNNN w).toNat = (fieldX w).toNat * 256 + (fieldKK w).toNat := by
  have hnnn := toNat_eq_opcode_nnn w
  have hxkk := toNat_eq_opcode_x_kk w
  omega

end Views

/-! ### Serialisation (R101, law 5) -/

/-- Serialisation undoes construction: the word is `b0 * 256 + b1` with `b1` below 256. -/
@[simp] theorem toBytes_fromBytes (b0 b1 : Byte) : toBytes (fromBytes b0 b1) = (b0, b1) := by
  obtain ⟨hhigh, hlow⟩ := toNat_toBytes (fromBytes b0 b1)
  rw [toNat_fromBytes] at hhigh hlow
  have hfirst : (toBytes (fromBytes b0 b1)).1 = b0 := by apply BitVec.eq_of_toNat_eq; omega
  have hsecond : (toBytes (fromBytes b0 b1)).2 = b1 := by apply BitVec.eq_of_toNat_eq; omega
  exact Prod.ext hfirst hsecond

/-- Settles O1, law by law; idempotence and the ranges hold by the type of the views. -/
theorem decoderFieldLaws : Obligations.DecoderFieldLaws := by
  refine ⟨fun w => ⟨toNat_fieldOpcode w, toNat_eq_opcode_x_y_n w, toNat_eq_opcode_x_kk w, toNat_eq_opcode_nnn w, ?same,
    toNat_fieldKK_eq_y_n w, toNat_fieldNNN_eq_x_kk w, fromBytes_toBytes w, (fieldOpcode w).isLt, (fieldX w).isLt,
    (fieldY w).isLt, (fieldN w).isLt, (fieldKK w).isLt, (fieldNNN w).isLt⟩, toBytes_fromBytes⟩
  case same =>
    rintro v rfl
    exact ⟨rfl, rfl, rfl, rfl, rfl, rfl⟩

end Sys2Proof

/-!
PROOFS. The cycle (R105 to R116): it runs the decoded instruction (O35), what it appends to `out` (O42), and the cycle of an
unrecognised word (O34).
-/

namespace Sys2Proof

/-! ### The word and the form that the cycle meets -/

/-- The fetched word as the number its bytes make, the first the more significant (R52). -/
theorem ofNat_bytes_eq_fromBytes (b0 b1 : Byte) : BitVec.ofNat 16 (b0.toNat * 256 + b1.toNat) = fromBytes b0 b1 := by
  rw [← toNat_fromBytes, BitVec.ofNat_toNat, BitVec.setWidth_eq]

/-- `decode` of two bytes answers the instruction of the word they make. -/
theorem decodeWord_of_decode {b0 b1 : Byte} {i : Instr} {rest : List Byte} (h : decode [b0, b1] = .ok (i, rest)) :
    decodeWord (fromBytes b0 b1) = i :=
  congrArg Prod.fst (Except.ok.inj h)

/-- The decoder hands an unrecognised form the raw word itself (R112): the form's canonical word is both (O7). -/
theorem eq_of_decodeWord_eq_unrecognised {c : Word → Instr} (hc : c ∈ Machine.unrecognisedForms) {v w : Word}
    (h : decodeWord w = c v) : v = w := by
  have hencode : EncodesCanonically w (c v) := h ▸ decodeWord_encodesCanonically w
  fin_cases hc <;> exact hencode

/-- The unrecognised values of `n` in family F, as a range (R79). -/
theorem mem_of_three_le_of_le_fourteen : ∀ n : Nibble, 3 ≤ n.toNat → n.toNat ≤ 14 →
    n ∈ [0x3#4, 0x4#4, 0x5#4, 0x6#4, 0x7#4, 0x8#4, 0x9#4, 0xA#4, 0xB#4, 0xC#4, 0xD#4, 0xE#4] := by
  decide

end Sys2Proof

namespace Sys2Proof.Machine

/-! ### What an instruction emits beside the trace -/

/-- `Emits i e`: `e` is an event of the kind that `i` emits; an unrecognised word reports itself (R112, R170 to R172). -/
inductive Emits : Instr → Event → Prop
  | diagnostic {c : Word → Instr} (hc : c ∈ unrecognisedForms) (w : Word) : Emits (c w) (.diagnostic w)
  | printRegs (x : Nibble) (bs : List Byte) : Emits (.printRegs x) (.printRegs bs)
  | printMem (x : Nibble) (bs : List Byte) : Emits (.printMem x) (.printMem bs)
  | haltNotice : Emits .halt .haltNotice

/-- The `out` clause of O44 by itself. -/
theorem exec_out_eq_or {i : Instr} {s t : State} (h : exec i s = .next t) : t.out = s.out ∨ i.mayEmit := by
  obtain ⟨-, -, -, -, -, -, hout, -⟩ := onlyTheNamedInstructionsWrite i s t h
  exact hout

/-- A handler appends nothing to `out`, or one event of its kind. -/
theorem exec_out_cases {i : Instr} {s t : State} (h : exec i s = .next t) :
    t.out = s.out ∨ ∃ e, t.out = s.out ++ [e] ∧ Emits i e := by
  obtain hsame | rfl | ⟨x, rfl | rfl⟩ | ⟨c, hc, w, rfl⟩ := exec_out_eq_or h
  · exact .inl hsame
  · cases h                                                                    -- halt
    exact .inr ⟨_, rfl, .haltNotice⟩
  · cases h                                                                    -- print-regs
    exact .inr ⟨_, rfl, .printRegs x _⟩
  · obtain ⟨-, e⟩ | ⟨-, e⟩ := execPrintMem_cases x s <;> cases h.symm.trans e  -- print-mem
    · exact .inl rfl
    · exact .inr ⟨_, rfl, .printMem x _⟩
  · cases h.symm.trans (exec_of_mem_unrecognisedForms hc w s)                  -- the 19 unrecognised words
    exact .inr ⟨_, rfl, .diagnostic hc w⟩

/-- The event of a decoded instruction, by its kind; a diagnostic names the word decoded. -/
theorem Emits.of_decodeWord {w : Word} {e : Event} (he : Emits (decodeWord w) e) :
    e = .diagnostic w ∨ (∃ bs, e = .printRegs bs) ∨ (∃ bs, e = .printMem bs) ∨ e = .haltNotice := by
  generalize hi : decodeWord w = i at he
  cases he with
  | diagnostic hc v => exact .inl (congrArg _ (eq_of_decodeWord_eq_unrecognised hc hi))
  | printRegs _ bs => exact .inr (.inl ⟨bs, rfl⟩)
  | printMem _ bs => exact .inr (.inr (.inl ⟨bs, rfl⟩))
  | haltNotice => exact .inr (.inr (.inr rfl))

/-! ### The cycle -/

/-- The trace stands before the event of the handler (R116). -/
theorem fetched_out_append (s : State) (w : Word) (e : Event) : (s.fetched w).out ++ [e] = s.out ++ [.trace w, e] :=
  List.append_assoc s.out [.trace w] [e]

/-- Settles O42: a faulting fetch writes `status` only; else the fetch appends the trace and the handler its event, if it has one. -/
theorem eventsOfACycle : Obligations.EventsOfACycle := by
  intro s t h
  obtain ⟨-, ⟨hp, rfl⟩ | ⟨w, hp, hw, he⟩⟩ := step_cases h
  · exact .inl ⟨hp, s.raise_out _⟩
  refine .inr ⟨hp, ?_⟩
  rw [show s.nextWord = w from hw.symm]
  obtain hout | ⟨e, hout, hemits⟩ := exec_out_cases he
  · exact .inl hout
  · exact .inr ⟨e, hout.trans (fetched_out_append s w e), hemits.of_decodeWord⟩

/-- Settles O34: the `opcode` and `n` given are those of an unrecognised form (O5), whose meaning only reports (R112). -/
theorem unrecognisedCycleContinues : Obligations.UnrecognisedCycleContinues := by
  intro s hr hp hw
  have hfetch : s.pc.toNat < 4095 := by omega
  obtain ⟨c, hc, hdec⟩ := (unrecognisedWordsAreExactlyThese s.nextWord).mpr
    (hw.imp_right fun ⟨ho, hlo, hhi⟩ => ⟨ho, mem_of_three_le_of_le_fourteen _ hlo hhi⟩)
  have hstep : step s = .next ((s.fetched s.nextWord).emit (.diagnostic s.nextWord)) := by
    rw [step_of_nextWord hr hfetch, hdec, exec_of_mem_unrecognisedForms hc]
  exact ⟨_, hstep, toNat_fetched_pc s.nextWord hfetch, fetched_out_append s s.nextWord _, hr, fun _ => rfl, rfl, ⟨rfl, rfl⟩,
    fun _ => rfl⟩

/-- Settles O35: the two bytes decode as the word they make, which is the word traced. -/
theorem stepRunsTheDecodedInstruction : Obligations.StepRunsTheDecodedInstruction := by
  intro s i hr hp hdec _
  rw [step_of_fetch hr (by omega), decodeWord_of_decode hdec, ofNat_bytes_eq_fromBytes]
  rfl

end Sys2Proof.Machine

/-!
PROOFS. Control transfer (R120 to R123): return (O8), jump (O9), call (O10) and jump-offset (O11).
-/

namespace Sys2Proof.Machine

/-! ### Frames of the operations that control transfer uses -/

theorem sameButPc_setPc (s : State) (p : Word) : s.sameButPc (s.setPc p) :=
  ⟨s.setPc_reg p, s.setPc_index p, ⟨s.setPc_sp p, s.setPc_stack p⟩, fun _ => rfl, s.setPc_status p, s.setPc_out p⟩

/-- A raise writes `status` only (R187). -/
theorem faultedWith_raise (s : State) (r : Raise) : s.faultedWith (s.raise r) r.cause :=
  ⟨s.raise_status r, s.raise_reg r, s.raise_index r, s.raise_pc r, ⟨s.raise_sp r, s.raise_stack r⟩, fun _ => rfl, s.raise_out r⟩

theorem sameButStackPc_update (s : State) (p : Word) (k : Byte) (st : Vector Word 16) :
    s.sameButStackPc { s with pc := p, sp := k, stack := st } :=
  ⟨fun _ => rfl, rfl, fun _ => rfl, rfl, rfl⟩

/-! ### Return and call, range of `sp` by range -/

section Ranges

variable {s : State}

theorem execRet_of_sp_eq_zero (h : s.sp.toNat = 0) : execRet s = .next (s.raise .stackUnderflow) := by
  obtain ⟨-, e⟩ | ⟨hsp, -⟩ | ⟨hsp, -⟩ := execRet_cases s
  · exact e
  · omega
  · omega

theorem execRet_of_slot (hlo : 1 ≤ s.sp.toNat) (hhi : s.sp.toNat ≤ 15) :
    execRet s = .next { s with pc := s.stack[s.sp.toNat]'(by omega), sp := s.sp - 1#8 } := by
  obtain ⟨hsp, -⟩ | ⟨_, e⟩ | ⟨hsp, -⟩ := execRet_cases s
  · omega
  · exact e
  · omega

theorem execCall_of_sp_eq_fifteen (nnn : Addr12) (h : s.sp.toNat = 15) :
    execCall nnn s = .next (s.raise .stackOverflow) := by
  obtain ⟨-, e⟩ | ⟨hsp, -⟩ | ⟨hsp, -⟩ := execCall_cases nnn s
  · exact e
  · omega
  · omega

theorem execCall_of_slot (nnn : Addr12) (h : s.sp.toNat ≤ 14) :
    execCall nnn s =
      .next { s with stack := s.stack.set (s.sp.toNat + 1) s.pc (by omega), pc := zext12 nnn, sp := s.sp + 1#8 } := by
  obtain ⟨hsp, -⟩ | ⟨_, e⟩ | ⟨hsp, -⟩ := execCall_cases nnn s
  · omega
  · exact e
  · omega

end Ranges

/-! ### The obligations -/

/-- Settles O8: the slot that `sp` names before the pop is the one read. -/
theorem returnPopsTheReturnAddress : Obligations.ReturnPopsTheReturnAddress := by
  refine ⟨fun w hw => decodeWord_ret ((and_mask_opcode w 0x0#4).mp hw), rfl, fun s h => ?underflow, fun s hlo hhi => ?pop⟩
  case underflow => exact ⟨_, execRet_of_sp_eq_zero h, faultedWith_raise s _⟩
  case pop =>
    have hslot : s.stack[s.sp.toNat]? = some (s.stack[s.sp.toNat]'(by omega)) := Vector.getElem?_eq_getElem (by omega)
    have hsp : (s.sp - 1#8).toNat = s.sp.toNat - 1 := BitVec.toNat_sub_of_le (by bv_omega)
    exact ⟨_, execRet_of_slot hlo hhi, hslot, hsp, rfl, sameButStackPc_update s _ _ _⟩

/-- Settles O9. -/
theorem jumpGoesToItsAddress : Obligations.JumpGoesToItsAddress :=
  ⟨fun w hw => decodeWord_jump ((and_mask_opcode w 0x1#4).mp hw),
    fun nnn s => ⟨s.setPc (zext12 nnn), rfl, toNat_zext12 nnn, sameButPc_setPc s _⟩⟩

/-- Settles O10: the one slot written is that above the old `sp`, and it exists for `sp` at most 14. -/
theorem callPushesTheReturnAddress : Obligations.CallPushesTheReturnAddress := by
  refine ⟨fun w hw => decodeWord_call ((and_mask_opcode w 0x2#4).mp hw), fun nnn s h => ?overflow, fun nnn s h => ?push⟩
  case overflow => exact ⟨_, execCall_of_sp_eq_fifteen nnn h, faultedWith_raise s _⟩
  case push =>
    have hsp : (s.sp + 1#8).toNat = s.sp.toNat + 1 := by bv_omega
    exact ⟨_, execCall_of_slot nnn h, hsp, Vector.getElem?_set_self (by omega), fun j hj => Vector.getElem?_set_ne (by omega) hj.symm,
      toNat_zext12 nnn, sameButStackPc_update s _ _ _⟩

/-- Settles O11: twelve bits and eight bits sum to at most 4350, far from the wrap of 16 bits. -/
theorem jumpOffsetAddsRegisterZero : Obligations.JumpOffsetAddsRegisterZero :=
  ⟨fun w hw => decodeWord_jumpOffset ((and_mask_opcode w 0xB#4).mp hw),
    fun nnn s => ⟨s.setPc (s.offsetTarget nnn), rfl, toNat_offsetTarget s nnn, sameButPc_setPc s _⟩⟩

end Sys2Proof.Machine

/-!
PROOFS. The conditional skips (R130 to R133): against an immediate (O13) and between two registers (O14).
-/

namespace Sys2Proof.Machine

/-! ### What a skip answers, on equality and on inequality -/

theorem sameButPc_skipIf (s : State) (c : Bool) : s.sameButPc (s.skipIf c) := by
  rw [skipIf_eq_setPc]
  exact sameButPc_setPc s _

theorem toNat_skipIf_beq_pc {s : State} (a b : Byte) (h : s.pc.toNat ≤ 65533) :
    (s.skipIf (a == b)).pc.toNat = if a = b then s.pc.toNat + 2 else s.pc.toNat := by
  rw [toNat_skipIf_pc _ h]
  by_cases hab : a = b
  · simp [hab]
  · simp [hab]

/-- The complement of the skip on equality (R131, R133). -/
theorem toNat_skipIf_bne_pc {s : State} (a b : Byte) (h : s.pc.toNat ≤ 65533) :
    (s.skipIf (a != b)).pc.toNat = if a = b then s.pc.toNat else s.pc.toNat + 2 := by
  rw [toNat_skipIf_pc _ h]
  by_cases hab : a = b
  · simp [hab]
  · simp [hab]

/-! ### The obligations -/

/-- Settles O13: both skips compare the same pair, the one for equality and the other for inequality. -/
theorem immediateSkipsCompareARegister : Obligations.ImmediateSkipsCompareARegister :=
  ⟨fun w hw => decodeWord_skipEqImm ((and_mask_opcode w 0x3#4).mp hw),
    fun w hw => decodeWord_skipNeqImm ((and_mask_opcode w 0x4#4).mp hw),
    fun x kk s =>
      ⟨⟨s.skipIf (s.reg x == kk), rfl, sameButPc_skipIf s _, toNat_skipIf_beq_pc (s.reg x) kk⟩,
        ⟨s.skipIf (s.reg x != kk), rfl, sameButPc_skipIf s _, toNat_skipIf_bne_pc (s.reg x) kk⟩⟩⟩

/-- Settles O14: as O13 with a second register for the immediate; the canonical word has its ignored `n` at 0. -/
theorem registerSkipsCompareTwoRegisters : Obligations.RegisterSkipsCompareTwoRegisters :=
  ⟨fun w hw => decodeWord_skipEqReg ((and_mask_opcode w 0x5#4).mp hw), fun x y => toNat_encodeXYN 0x5 x y 0x0,
    fun w hw => decodeWord_skipNeqReg ((and_mask_opcode w 0x9#4).mp hw), fun x y => toNat_encodeXYN 0x9 x y 0x0,
    fun x y s =>
      ⟨⟨s.skipIf (s.reg x == s.reg y), rfl, sameButPc_skipIf s _, toNat_skipIf_beq_pc (s.reg x) (s.reg y)⟩,
        ⟨s.skipIf (s.reg x != s.reg y), rfl, sameButPc_skipIf s _, toNat_skipIf_bne_pc (s.reg x) (s.reg y)⟩⟩⟩

end Sys2Proof.Machine

/-!
PROOFS. Registers and ALU (R140 to R150): load-imm (O15), add-imm (O16), move (O17), the bitwise operations (O18), the sum and the
differences with their flag (O19, O20), and the two shifts (O21, O22).
-/

namespace Sys2Proof

/-- A word that a row of mask 0xF00F takes decodes as the arm of that `opcode` and `n` (R76, R109, R110). -/
theorem decodeWord_of_and_mask {w : Word} {o k : Nibble} {i : Instr}
    (arm : fieldOpcode w = o → fieldN w = k → decodeWord w = i) (hw : w &&& 0xF00F#16 = encodeXYN o 0 0 k) : decodeWord w = i := by
  obtain ⟨ho, hn⟩ := (and_mask_opcode_n w o k).mp hw
  exact arm ho hn

/-- The canonical words of family 8 that ignore `y` (R83). -/
theorem toNat_family8_word (x n : Nibble) : (encodeXYN 0x8 x 0x0 n).toNat = 0x8000 + n.toNat + x.toNat * 256 := by
  have hword : (encodeXYN 0x8 x 0x0 n).toNat = 8 * 4096 + x.toNat * 256 + 0 * 16 + n.toNat := toNat_encodeXYN 0x8 x 0x0 n
  omega

end Sys2Proof

namespace Sys2Proof.Machine

/-! ### What the three writes to the register file leave alone -/

namespace State

variable (s : State) (x : Nibble)

/-- One register written (R7): every other register (so `F`, unless `x` = 15) and all other state is kept. -/
theorem setReg_frame (v : Byte) : (∀ j, j ≠ x → (s.setReg x v).reg j = s.reg j) ∧ s.sameButRegs (s.setReg x v) :=
  ⟨fun _ hj => s.reg_setReg_ne v hj, rfl, rfl, ⟨rfl, rfl⟩, fun _ => rfl, rfl, rfl⟩

theorem setRegThenFlag_frame (r f : Byte) :
    (∀ j, j ≠ x → j ≠ 15#4 → (s.setRegThenFlag x r f).reg j = s.reg j) ∧ s.sameButRegs (s.setRegThenFlag x r f) :=
  ⟨fun j hx hF => by rw [reg_setRegThenFlag, if_neg hF, if_neg hx], rfl, rfl, ⟨rfl, rfl⟩, fun _ => rfl, rfl, rfl⟩

theorem setFlagThenShift_frame (f : Byte) (g : Byte → Byte) :
    (∀ j, j ≠ x → j ≠ 15#4 → (s.setFlagThenShift x f g).reg j = s.reg j) ∧ s.sameButRegs (s.setFlagThenShift x f g) :=
  ⟨fun j hx hF => by rw [reg_setFlagThenShift, if_neg hx, if_neg hF], rfl, rfl, ⟨rfl, rfl⟩, fun _ => rfl, rfl, rfl⟩

/-! ### What the destination and the flag hold after a write of both -/

variable {x}

theorem reg_setRegThenFlag_dest (r f : Byte) (hx : x ≠ 15#4) : (s.setRegThenFlag x r f).reg x = r := by
  rw [reg_setRegThenFlag, if_neg hx, if_pos rfl]

/-- Register 15 holds the flag even as the destination (R146, R147, R149). -/
theorem reg_setRegThenFlag_flag (r f : Byte) : (s.setRegThenFlag x r f).reg 15#4 = f := by
  rw [reg_setRegThenFlag, if_pos rfl]

theorem reg_setFlagThenShift_dest (f : Byte) (g : Byte → Byte) (hx : x ≠ 15#4) :
    (s.setFlagThenShift x f g).reg x = g (s.reg x) := by
  rw [reg_setFlagThenShift, if_pos rfl, if_neg hx]

theorem reg_setFlagThenShift_flag (f : Byte) (g : Byte → Byte) (hx : x ≠ 15#4) :
    (s.setFlagThenShift x f g).reg 15#4 = f := by
  rw [reg_setFlagThenShift, if_neg hx.symm, if_pos rfl]

/-- With register 15 as its operand a shift takes the flag just written (R148, R150). -/
theorem reg_setFlagThenShift_self (f : Byte) (g : Byte → Byte) : (s.setFlagThenShift 15#4 f g).reg 15#4 = g f := by
  rw [reg_setFlagThenShift, if_pos rfl, if_pos rfl]

end State

/-! ### Bytes and flags as numbers -/

theorem toNat_carryOut (a b : Byte) : (carryOut a b).toNat = if 256 ≤ a.toNat + b.toNat then 1 else 0 :=
  apply_ite BitVec.toNat _ _ _

theorem toNat_noBorrow (a b : Byte) : (noBorrow a b).toNat = if b.toNat ≤ a.toNat then 1 else 0 :=
  apply_ite BitVec.toNat _ _ _

theorem toNat_lowBitOut (a : Byte) : (lowBitOut a).toNat = a.toNat % 2 :=
  (BitVec.toNat_and a 1#8).trans (Nat.and_one_is_mod a.toNat)

theorem toNat_highBitOut (a : Byte) : (highBitOut a).toNat = a.toNat / 128 := by
  rw [highBitOut, BitVec.toNat_ushiftRight, Nat.shiftRight_eq_div_pow]

/-- The difference modulo 256, with the 256 added before the subtraction so that it does not truncate (R151). -/
theorem toNat_byte_sub (a b : Byte) : (a - b).toNat = (a.toNat + 256 - b.toNat) % 256 := by
  rw [BitVec.toNat_sub]; omega

theorem toNat_byte_half (a : Byte) : (a >>> 1).toNat = a.toNat / 2 := by
  rw [BitVec.toNat_ushiftRight, Nat.shiftRight_eq_div_pow, Nat.pow_one]

theorem toNat_byte_double (a : Byte) : (a <<< 1).toNat = 2 * a.toNat % 256 := by
  rw [BitVec.toNat_shiftLeft, Nat.shiftLeft_eq, Nat.pow_one, Nat.mul_comm]

/-- A flag is 0 or 1, so a right shift leaves nothing of it (R148). -/
theorem toNat_lowBitOut_half (a : Byte) : (lowBitOut a >>> 1).toNat = 0 := by
  rw [toNat_byte_half, toNat_lowBitOut]; omega

/-- A left shift moves the flag from bit 0 to bit 1 (R150). -/
theorem toNat_highBitOut_double (a : Byte) : (highBitOut a <<< 1).toNat = if 128 ≤ a.toNat then 2 else 0 := by
  have hlt := a.isLt
  rw [toNat_byte_double, toNat_highBitOut]
  split <;> omega

/-! ### The obligations -/

/-- Settles O15. -/
theorem loadImmSetsOneRegister : Obligations.LoadImmSetsOneRegister :=
  ⟨fun w hw => decodeWord_loadImm ((and_mask_opcode w 0x6#4).mp hw),
    fun x kk s => ⟨s.setReg x kk, rfl, s.reg_setReg_self x kk, s.setReg_frame x kk⟩⟩

/-- Settles O16: bytes add modulo 256, and the one register written is the destination. -/
theorem addImmWrapsWithoutFlag : Obligations.AddImmWrapsWithoutFlag := by
  refine ⟨fun w hw => decodeWord_addImm ((and_mask_opcode w 0x7#4).mp hw), fun x kk s => ?_⟩
  have hsum : ((s.setReg x (s.reg x + kk)).reg x).toNat = ((s.reg x).toNat + kk.toNat) % 256 := by
    rw [State.reg_setReg_self, BitVec.toNat_add]
  exact ⟨_, rfl, hsum, s.setReg_frame x _⟩

/-- Settles O17. -/
theorem moveCopiesARegister : Obligations.MoveCopiesARegister :=
  ⟨fun _ hw => decodeWord_of_and_mask decodeWord_move hw,
    fun x y s => ⟨s.setReg x (s.reg y), rfl, s.reg_setReg_self x _, s.setReg_frame x _⟩⟩

/-- Settles O18: the three differ in the bitwise operation only, whose bits the library gives. -/
theorem logicalOperationsLeaveTheFlag : Obligations.LogicalOperationsLeaveTheFlag := by
  refine ⟨fun _ hw => decodeWord_of_and_mask decodeWord_orReg hw, fun _ hw => decodeWord_of_and_mask decodeWord_andReg hw,
    fun _ hw => decodeWord_of_and_mask decodeWord_xorReg hw, fun x y s => ⟨⟨_, rfl, fun k => ?or, s.setReg_frame x _⟩,
      ⟨_, rfl, fun k => ?and, s.setReg_frame x _⟩, ⟨_, rfl, fun k => ?xor, s.setReg_frame x _⟩⟩⟩
  case or => rw [State.reg_setReg_self, BitVec.getLsbD_or]
  case and => rw [State.reg_setReg_self, BitVec.getLsbD_and]
  case xor => rw [State.reg_setReg_self, BitVec.getLsbD_xor]

/-- Settles O19: the carry is written last, so it is what register 15 holds, destination or not. -/
theorem addRegWritesSumAndCarry : Obligations.AddRegWritesSumAndCarry := by
  refine ⟨fun _ hw => decodeWord_of_and_mask decodeWord_addReg hw,
    fun x y s => ⟨_, rfl, fun hx => ?sum, ?carry, s.setRegThenFlag_frame x _ _⟩⟩
  case sum => rw [s.reg_setRegThenFlag_dest _ _ hx, BitVec.toNat_add]
  case carry => rw [s.reg_setRegThenFlag_flag, toNat_carryOut]

/-- What both subtractions write, `a` being the minuend and `b` the subtrahend (R147, R149). -/
theorem setRegThenFlag_difference (s : State) (x : Nibble) (a b : Byte) :
    (x ≠ 15#4 → ((s.setRegThenFlag x (a - b) (noBorrow a b)).reg x).toNat = (a.toNat + 256 - b.toNat) % 256) ∧
    ((s.setRegThenFlag x (a - b) (noBorrow a b)).reg 15#4).toNat = if b.toNat ≤ a.toNat then 1 else 0 := by
  constructor
  · intro hx
    rw [s.reg_setRegThenFlag_dest _ _ hx, toNat_byte_sub]
  · rw [s.reg_setRegThenFlag_flag, toNat_noBorrow]

/-- Settles O20: sub-reg and subn-reg are one subtraction with the operands exchanged. -/
theorem subtractionsWriteDifferenceAndNoBorrow : Obligations.SubtractionsWriteDifferenceAndNoBorrow := by
  refine ⟨fun _ hw => decodeWord_of_and_mask decodeWord_subReg hw, fun _ hw => decodeWord_of_and_mask decodeWord_subnReg hw,
    fun x y s => ⟨?sub, ?subn⟩⟩
  case sub =>
    obtain ⟨hdiff, hflag⟩ := setRegThenFlag_difference s x (s.reg x) (s.reg y)
    exact ⟨_, rfl, hdiff, hflag, s.setRegThenFlag_frame x _ _⟩
  case subn =>
    obtain ⟨hdiff, hflag⟩ := setRegThenFlag_difference s x (s.reg y) (s.reg x)
    exact ⟨_, rfl, hdiff, hflag, s.setRegThenFlag_frame x _ _⟩

/-- Settles O21: the flag is written first, so with `x` = 15 it is the flag that is halved. -/
theorem shiftRightWritesFlagThenRegister : Obligations.ShiftRightWritesFlagThenRegister := by
  refine ⟨fun _ hw => decodeWord_of_and_mask decodeWord_shiftRight hw, fun x => ?word,
    fun x s => ⟨_, rfl, fun hx => ⟨?half, ?flag⟩, fun hx => ?flagHalved, s.setFlagThenShift_frame x _ _⟩⟩
  case word => exact toNat_family8_word x 0x6
  case half => rw [s.reg_setFlagThenShift_dest _ _ hx, toNat_byte_half]
  case flag => rw [s.reg_setFlagThenShift_flag _ _ hx, toNat_lowBitOut]
  case flagHalved => subst hx; rw [s.reg_setFlagThenShift_self, toNat_lowBitOut_half]

/-- Settles O22: as O21, the flag being doubled with `x` = 15. -/
theorem shiftLeftWritesFlagThenRegister : Obligations.ShiftLeftWritesFlagThenRegister := by
  refine ⟨fun _ hw => decodeWord_of_and_mask decodeWord_shiftLeft hw, fun x => ?word,
    fun x s => ⟨_, rfl, fun hx => ⟨?double, ?flag⟩, fun hx => ?flagDoubled, s.setFlagThenShift_frame x _ _⟩⟩
  case word => exact toNat_family8_word x 0xE
  case double => rw [s.reg_setFlagThenShift_dest _ _ hx, toNat_byte_double]
  case flag => rw [s.reg_setFlagThenShift_flag _ _ hx, toNat_highBitOut]
  case flagDoubled => subst hx; rw [s.reg_setFlagThenShift_self, toNat_highBitOut_double]

end Sys2Proof.Machine

/-!
PROOFS. Index register and memory (R160 to R164): load-index (O23), add-index (O24), bcd (O25), store-block (O26), load-block (O27),
and what a store-block saved restored by a load-block (O29).
-/

namespace Sys2Proof

/-- The canonical words of format `X`: the ignored low byte is 0 (R83). -/
theorem toNat_formatX_word (op x : Nibble) : (encodeXYN op x 0x0 0x0).toNat = op.toNat * 4096 + x.toNat * 256 := by
  simp [toNat_encodeXYN]

end Sys2Proof

namespace Sys2Proof.Machine

/-! ### Frames of the operations that these instructions use -/

theorem sameButIndex_setIndex (s : State) (a : Word) : s.sameButIndex (s.setIndex a) :=
  ⟨s.setIndex_reg a, s.setIndex_pc a, ⟨s.setIndex_sp a, s.setIndex_stack a⟩, fun _ => rfl, s.setIndex_status a, s.setIndex_out a⟩

theorem sameButMemory_update (s : State) (m : Memory) : s.sameButMemory { s with mem := m } :=
  ⟨fun _ => rfl, rfl, rfl, ⟨rfl, rfl⟩, rfl, rfl⟩

theorem sameButRegs_update (s : State) (rs : Vector Byte 16) : s.sameButRegs { s with regs := rs } :=
  ⟨rfl, rfl, ⟨rfl, rfl⟩, fun _ => rfl, rfl, rfl⟩

/-- The range check comes before any effect, so out of range no part of the handler's body happens (R57, R187). -/
theorem settle_checkRange_faultedWith (s : State) {k : Nat} (body : Except Raise State) (h : 4095 < s.index.toNat + k) :
    ∃ t, (settle s do s.checkRange k; body) = .next t ∧ s.faultedWith t .memoryOutOfBounds := by
  obtain ⟨-, e⟩ | ⟨hin, -⟩ := settle_checkRange s k body
  · exact ⟨_, e, faultedWith_raise s _⟩
  · omega

/-! ### Each instruction, range by range -/

section Ranges

variable {x : Nibble} {s : State}

theorem execAddIndex_in_range (h : s.index.toNat + (s.reg x).toNat ≤ 65535) :
    execAddIndex x s = .next (s.setIndex (s.index + zext8 (s.reg x))) := by
  obtain ⟨hout, -⟩ | ⟨-, e⟩ := execAddIndex_cases x s
  · omega
  · exact e

theorem execAddIndex_overflow (h : 65535 < s.index.toNat + (s.reg x).toNat) :
    execAddIndex x s = .next (s.raise .indexOverflow) := by
  obtain ⟨-, e⟩ | ⟨hin, -⟩ := execAddIndex_cases x s
  · exact e
  · omega

@[simp] theorem effAddr_inj {i j : Nat} : s.effAddr i = s.effAddr j ↔ i = j := Nat.add_left_cancel_iff

/-- bcd in range writes memory only: a digit at each of its three effective addresses (R162). -/
theorem execBcd_in_range (h : s.index.toNat + 2 ≤ 4095) :
    ∃ m : Memory, execBcd x s = .next { s with mem := m } ∧
      m.read (s.effAddr 0) = (bcdDigits (s.reg x)).1 ∧ m.read (s.effAddr 1) = (bcdDigits (s.reg x)).2.1 ∧
      m.read (s.effAddr 2) = (bcdDigits (s.reg x)).2.2 ∧
      ∀ a, a ≠ s.effAddr 0 → a ≠ s.effAddr 1 → a ≠ s.effAddr 2 → m.read a = s.mem.read a := by
  obtain ⟨hout, -⟩ | ⟨-, m, e, -, hread⟩ := execBcd_cases x s
  · omega
  have hdigit : ∀ a, m.read a =
      if a = s.effAddr 0 then (bcdDigits (s.reg x)).1
      else if a = s.effAddr 1 then (bcdDigits (s.reg x)).2.1
      else if a = s.effAddr 2 then (bcdDigits (s.reg x)).2.2
      else s.mem.read a := hread
  refine ⟨m, e, by simp [hdigit], by simp [hdigit], by simp [hdigit], fun a h0 h1 h2 => ?_⟩
  rw [hdigit, if_neg h0, if_neg h1, if_neg h2]

/-- The block of a range is the set of the effective addresses of the registers 0 to `x` (R163, R164). -/
theorem in_block_iff {a : Nat} : (s.index.toNat ≤ a ∧ a ≤ s.index.toNat + x.toNat) ↔
    ∃ i : Nibble, i.toNat ≤ x.toNat ∧ a = s.effAddr i.toNat := by
  simp only [State.effAddr]
  constructor
  · rintro ⟨hlo, hhi⟩
    have hx := x.isLt
    have hi : (BitVec.ofNat 4 (a - s.index.toNat)).toNat = a - s.index.toNat := by
      rw [BitVec.toNat_ofNat]; omega
    exact ⟨BitVec.ofNat 4 (a - s.index.toNat), by omega, by omega⟩
  · rintro ⟨i, hi, rfl⟩
    omega

/-- store-block in range leaves every byte outside its block alone (R163). -/
theorem execStoreBlock_frame {t : State} (h : execStoreBlock x s = .next t) (hx : s.index.toNat + x.toNat ≤ 4095) (a : Nat)
    (ha : ∀ i : Nibble, i.toNat ≤ x.toNat → a ≠ s.effAddr i.toNat) : t.mem.read a = s.mem.read a := by
  obtain ⟨hout, -⟩ | ⟨-, m, e, -, hread⟩ := execStoreBlock_cases x s
  · omega
  obtain rfl : t = { s with mem := m } := Host.Outcome.next.inj (h.symm.trans e)
  refine (hread a).trans (if_neg fun hin => ?_)
  obtain ⟨i, hi, rfl⟩ := in_block_iff.mp hin
  exact ha i hi rfl

/-- In range or not, store-block answers a next state. -/
theorem execStoreBlock_next (x : Nibble) (s : State) : ∃ t, execStoreBlock x s = .next t := by
  obtain ⟨-, e⟩ | ⟨-, m, e, -⟩ := execStoreBlock_cases x s
  · exact ⟨_, e⟩
  · exact ⟨_, e⟩

/-- load-block in range writes registers only, each up to `x` from its effective address (R164). -/
theorem execLoadBlock_in_range (h : s.index.toNat + x.toNat ≤ 4095) :
    ∃ rs, execLoadBlock x s = .next { s with regs := rs } ∧ ∀ j : Nibble,
      ({ s with regs := rs } : State).reg j = if j.toNat ≤ x.toNat then s.mem.read (s.effAddr j.toNat) else s.reg j := by
  obtain ⟨hout, -⟩ | ⟨-, rs, e, hreg⟩ := execLoadBlock_cases x s
  · omega
  · exact ⟨rs, e, hreg⟩

end Ranges

/-! ### The values written, as numbers -/

/-- Below the wrap of 16 bits the sum that add-index writes is the integer sum (R161). -/
theorem toNat_add_zext8 {a : Word} {b : Byte} (h : a.toNat + b.toNat ≤ 65535) : (a + zext8 b).toNat = a.toNat + b.toNat := by
  rw [BitVec.toNat_add_of_lt (by rw [toNat_zext8]; omega), toNat_zext8]

/-- Each digit fits its byte (R162). -/
theorem toNat_bcdDigits (v : Byte) : (bcdDigits v).1.toNat = v.toNat / 100 ∧
    (bcdDigits v).2.1.toNat = v.toNat / 10 % 10 ∧ (bcdDigits v).2.2.toNat = v.toNat % 10 := by
  have hv := v.isLt
  simp only [bcdDigits, BitVec.toNat_ofNat]
  omega

/-! ### The obligations -/

/-- Settles O23: twelve bits widened by zeros keep their value. -/
theorem loadIndexSetsTheIndex : Obligations.LoadIndexSetsTheIndex :=
  ⟨fun w hw => decodeWord_loadIndex ((and_mask_opcode w 0xA#4).mp hw),
    fun nnn s => ⟨s.setIndex (zext12 nnn), rfl, toNat_zext12 nnn, sameButIndex_setIndex s _⟩⟩

/-- Settles O24: the sum is compared as an integer before it is written in 16 bits. -/
theorem addIndexAddsOrFaults : Obligations.AddIndexAddsOrFaults := by
  refine ⟨fun w hw => decodeWord_addIndex ((and_mask_opcode w 0xC#4).mp hw), toNat_formatX_word 0xC,
    fun x s => ⟨fun h => ?adds, fun h => ?faults⟩⟩
  case adds => exact ⟨_, execAddIndex_in_range h, toNat_add_zext8 h, sameButIndex_setIndex s _⟩
  case faults => exact ⟨_, execAddIndex_overflow h, faultedWith_raise s _⟩

/-- Settles O25: the three digits of a byte lie at three distinct addresses. -/
theorem bcdStoresThreeDigits : Obligations.BcdStoresThreeDigits := by
  refine ⟨fun w hw => decodeWord_bcd ((and_mask_opcode w 0xD#4).mp hw), toNat_formatX_word 0xD,
    fun x s => ⟨fun h => ?stores, settle_checkRange_faultedWith s _⟩⟩
  obtain ⟨m, e, h0, h1, h2, hframe⟩ := execBcd_in_range (x := x) h
  obtain ⟨hundreds, tens, ones⟩ := toNat_bcdDigits (s.reg x)
  exact ⟨_, e, h0 ▸ hundreds, h1 ▸ tens, h2 ▸ ones, hframe, sameButMemory_update s m⟩

/-- Settles O26: the bytes stored and the bytes kept are told apart by the block of the range. -/
theorem storeBlockStoresRegisters : Obligations.StoreBlockStoresRegisters := by
  refine ⟨fun w hw => decodeWord_storeBlock ((and_mask_opcode w 0xE#4).mp hw), toNat_formatX_word 0xE,
    fun x s => ⟨fun h => ?stores, settle_checkRange_faultedWith s _⟩⟩
  obtain ⟨t, e⟩ := execStoreBlock_next x s
  have hframe := execStoreBlock_frame e h
  obtain ⟨m, rfl, hstored⟩ := execStoreBlock_in_range e h
  exact ⟨_, e, hstored, hframe, sameButMemory_update s m⟩

/-- Settles O27: each register up to `x` has its own byte, and in range the whole block is read. -/
theorem loadBlockLoadsRegisters : Obligations.LoadBlockLoadsRegisters := by
  refine ⟨fun w hw => decodeWord_of_and_mask decodeWord_loadBlock hw, toNat_formatX_word 0xF,
    fun x s => ⟨fun h => ?loads, settle_checkRange_faultedWith s _⟩⟩
  obtain ⟨rs, e, hreg⟩ := execLoadBlock_in_range (x := x) h
  exact ⟨_, e, fun i hi => (hreg i).trans (if_pos hi), fun i hi => (hreg i).trans (if_neg (by omega)), sameButRegs_update s rs⟩

/-- Settles O29: each register up to `x` is read from the byte where the store-block put it. -/
theorem loadBlockRestoresWhatStoreBlockSaved : Obligations.LoadBlockRestoresWhatStoreBlockSaved := by
  intro x s t u hx hstore hindex hkept
  obtain ⟨m, rfl, hstored⟩ := execStoreBlock_in_range hstore hx
  obtain ⟨rs, hload, hreg⟩ := execLoadBlock_in_range (x := x) (s := u) (by rwa [hindex])
  refine ⟨_, hload, fun i => (hreg i).trans ?_⟩
  split
  case isTrue hi =>
    calc u.mem.read (u.effAddr i.toNat) = m.read (s.effAddr i.toNat) := hkept i hi
      _ = s.reg i := hstored i hi
  case isFalse => rfl

end Sys2Proof.Machine

/-!
PROOFS. Output and halt (R170 to R172): print-regs (O30), print-mem (O31) and halt (O32).
-/

namespace Sys2Proof

/-- The canonical words of family F that ignore `y` (R83). -/
theorem toNat_familyF_word (x n : Nibble) : (encodeXYN 0xF x 0x0 n).toNat = 0xF000 + n.toNat + x.toNat * 256 := by
  have hword : (encodeXYN 0xF x 0x0 n).toNat = 15 * 4096 + x.toNat * 256 + 0 * 16 + n.toNat := toNat_encodeXYN 0xF x 0x0 n
  omega

end Sys2Proof

namespace Sys2Proof.Machine

/-! ### The bytes that a print emits -/

section Bytes

variable {x : Nibble}

theorem length_map_upTo (f : Nibble → Byte) : ((upTo x).map f).length = x.toNat + 1 := by
  rw [List.length_map, length_upTo]

/-- A list made along `0..=x` has the value for each `i` of the range at place `i` (R170, R171). -/
theorem getElem?_map_upTo (f : Nibble → Byte) {i : Nibble} (hi : i.toNat ≤ x.toNat) :
    ((upTo x).map f)[i.toNat]? = some (f i) := by
  have hlen : i.toNat < (upTo x).length := by rw [length_upTo]; omega
  rw [List.getElem?_map, List.getElem?_eq_getElem hlen, getElem_upTo, BitVec.ofNat_toNat, BitVec.setWidth_eq, Option.map_some]

/-- The same for a value that depends on the place only, such as the byte of an effective address. -/
theorem getElem?_map_upTo_toNat (g : Nat → Byte) {k : Nat} (hk : k ≤ x.toNat) :
    ((upTo x).map fun i => g i.toNat)[k]? = some (g k) := by
  have hx := x.isLt
  exact getElem?_map_upTo (fun i => g i.toNat) (i := BitVec.ofNatLT k (by omega)) hk

end Bytes

/-! ### print-mem in range -/

theorem execPrintMem_in_range {x : Nibble} {s : State} (h : s.index.toNat + x.toNat ≤ 4095) :
    execPrintMem x s = .next (s.emit (.printMem ((upTo x).map fun i => s.mem.read (s.effAddr i.toNat)))) := by
  obtain ⟨hout, -⟩ | ⟨-, e⟩ := execPrintMem_cases x s
  · omega
  · exact e

/-! ### After a halt -/

/-- A halted engine is not Running, so no cycle follows (R32, R105). -/
theorem step_ne_next_of_halted {s : State} {e : Nat} (h : s.status = .halted e) (u : State) : step s ≠ .next u := by
  intro hstep
  have hrunning : s.status = .running := stoppedEngineHasNoStep s u hstep
  cases h.symm.trans hrunning

/-! ### The obligations -/

/-- Settles O31: in range the one event is made along `0..=x`; out of range the check comes before it. -/
theorem printMemEmitsBytes : Obligations.PrintMemEmitsBytes := by
  refine ⟨fun _ hw => decodeWord_of_and_mask decodeWord_printMem hw, fun x => toNat_familyF_word x 0x2,
    fun x s => ⟨fun h => ?emits, settle_checkRange_faultedWith s _⟩⟩
  exact ⟨_, _, execPrintMem_in_range h, s.emit_out _, length_map_upTo _,
    fun _ hk => getElem?_map_upTo_toNat (fun k => s.mem.read (s.effAddr k)) hk, sameButOut_emit s _⟩

/-- Settles O30: the one event is made along `0..=x`. -/
theorem printRegsEmitsRegisters : Obligations.PrintRegsEmitsRegisters :=
  ⟨fun _ hw => decodeWord_of_and_mask decodeWord_printRegs hw, fun x => toNat_familyF_word x 0x1,
    fun _ s => ⟨_, _, rfl, s.emit_out _, length_map_upTo s.reg, fun _ hi => getElem?_map_upTo s.reg hi, sameButOut_emit s _⟩⟩

/-- Settles O32: the state left is halted, from which there is no step. -/
theorem haltEndsTheRun : Obligations.HaltEndsTheRun := by
  refine ⟨fun _ hw => decodeWord_of_and_mask decodeWord_halt hw, rfl, fun s => ?halts⟩
  obtain ⟨hregs, hindex, hpc, hstack, hmem, -⟩ := sameButOut_emit s .haltNotice
  exact ⟨_, rfl, rfl, s.emit_out _, hregs, hindex, hpc, hstack, hmem, step_ne_next_of_halted rfl⟩

end Sys2Proof.Machine

/-!
PROOFS. The fatal conditions (R180 to R188): each instruction that can raise does so exactly under its own condition
(`RaisesExactlyWhen`), from which the causes (O45), the memory faults (O47) and the stack faults (O48); the fetch fault (O37); and that
every fault is precise (O46).
-/

namespace Sys2Proof.Machine

/-! ### A handler and its one fatal condition -/

/-- `r`, the answer of a handler that began in `s`, has `p` for its fatal condition: where `r` is a next state, that state is Faulted only
under `p` and only with cause `c`, and under `p` it is `s` with that cause and nothing else changed (R187). -/
def RaisesExactlyWhen (s : State) (r : Result) (c : FaultCause) (p : Prop) : Prop :=
  ∀ t, r = .next t → (∀ d, t.status = .faulted d → d = c ∧ p) ∧ (p → s.faultedWith t c)

namespace RaisesExactlyWhen

variable {s t : State} {r : Result} {c d : FaultCause} {p : Prop}

theorem of_raise (e : Raise) (hp : p) : RaisesExactlyWhen s (.next (s.raise e)) e.cause p := by
  rintro _ ⟨⟩
  exact ⟨fun d hd => ⟨(RunStatus.faulted.inj hd).symm, hp⟩, fun _ => faultedWith_raise s e⟩

theorem of_status_eq (hs : s.notFaulted) (ht : t.status = s.status) (hp : ¬p) : RaisesExactlyWhen s (.next t) c p := by
  rintro _ ⟨⟩
  exact ⟨fun d hd => absurd (ht.symm.trans hd) (hs d), fun h => absurd h hp⟩

theorem of_fault (f : Fault) : RaisesExactlyWhen s (.fault f) c p := fun _ h => by cases h

theorem of_faulted (hr : RaisesExactlyWhen s r c p) (h : r = .next t) (ht : t.status = .faulted d) : d = c ∧ p := (hr t h).1 d ht

/-- The form in which R182, R183 and R184 state a condition, for a handler that completes. -/
theorem exists_next (hr : RaisesExactlyWhen s r c p) (h : ∃ t, r = .next t) :
    ∃ t, r = .next t ∧ (t.status = .faulted c ↔ p) ∧ (p → s.faultedWith t c) := by
  obtain ⟨t, ht⟩ := h
  obtain ⟨honly, hfault⟩ := hr t ht
  exact ⟨t, ht, ⟨fun hc => (honly c hc).2, fun hp => (hfault hp).1⟩, hfault⟩

end RaisesExactlyWhen

/-! ### The condition of each instruction (R188, R198) -/

section Conditions

variable {s : State}

/-- R183. -/
theorem execRet_raises (hs : s.notFaulted) : RaisesExactlyWhen s (execRet s) .stackUnderflow (s.sp.toNat = 0) := by
  obtain ⟨h, e⟩ | ⟨h, e⟩ | ⟨-, e⟩ := execRet_cases s <;> rw [e]
  · exact .of_raise _ h
  · exact .of_status_eq hs rfl (by omega)
  · exact .of_fault _

/-- R182. -/
theorem execCall_raises (nnn : Addr12) (hs : s.notFaulted) :
    RaisesExactlyWhen s (execCall nnn s) .stackOverflow (s.sp.toNat = 15) := by
  obtain ⟨h, e⟩ | ⟨h, e⟩ | ⟨-, e⟩ := execCall_cases nnn s <;> rw [e]
  · exact .of_raise _ h
  · exact .of_status_eq hs rfl (by omega)
  · exact .of_fault _

/-- R185. -/
theorem execAddIndex_raises (x : Nibble) (hs : s.notFaulted) :
    RaisesExactlyWhen s (execAddIndex x s) .indexOverflow (65535 < s.index.toNat + (s.reg x).toNat) := by
  obtain ⟨h, e⟩ | ⟨h, e⟩ := execAddIndex_cases x s <;> rw [e]
  · exact .of_raise _ h
  · exact .of_status_eq hs rfl (by omega)

/-- R184 for the three bytes of bcd. -/
theorem execBcd_raises (x : Nibble) (hs : s.notFaulted) :
    RaisesExactlyWhen s (execBcd x s) .memoryOutOfBounds (4095 < s.index.toNat + 2) := by
  obtain ⟨h, e⟩ | ⟨h, m, e, -⟩ := execBcd_cases x s <;> rw [e]
  · exact .of_raise _ h
  · exact .of_status_eq hs rfl (by omega)

/-- R184 for a block stored. -/
theorem execStoreBlock_raises (x : Nibble) (hs : s.notFaulted) :
    RaisesExactlyWhen s (execStoreBlock x s) .memoryOutOfBounds (4095 < s.index.toNat + x.toNat) := by
  obtain ⟨h, e⟩ | ⟨h, m, e, -⟩ := execStoreBlock_cases x s <;> rw [e]
  · exact .of_raise _ h
  · exact .of_status_eq hs rfl (by omega)

/-- R184 for a block loaded. -/
theorem execLoadBlock_raises (x : Nibble) (hs : s.notFaulted) :
    RaisesExactlyWhen s (execLoadBlock x s) .memoryOutOfBounds (4095 < s.index.toNat + x.toNat) := by
  obtain ⟨h, e⟩ | ⟨h, rs, e, -⟩ := execLoadBlock_cases x s <;> rw [e]
  · exact .of_raise _ h
  · exact .of_status_eq hs rfl (by omega)

/-- R184 for a block printed. -/
theorem execPrintMem_raises (x : Nibble) (hs : s.notFaulted) :
    RaisesExactlyWhen s (execPrintMem x s) .memoryOutOfBounds (4095 < s.index.toNat + x.toNat) := by
  obtain ⟨h, e⟩ | ⟨h, e⟩ := execPrintMem_cases x s <;> rw [e]
  · exact .of_raise _ h
  · exact .of_status_eq hs rfl (by omega)

end Conditions

/-! ### A handler that ends Faulted, and the engine after it -/

/-- Only a raise makes a running engine Faulted, and a raise writes `status` only (R187, R198). -/
theorem exec_faulted {i : Instr} {s t : State} {c : FaultCause} (h : exec i s = .next t) (hs : s.notFaulted)
    (ht : t.status = .faulted c) : i.mayRaise ∧ s.faultedWith t c := by
  cases answers_of_exec h with
  | raises r hi =>
    obtain rfl : r.cause = c := RunStatus.faulted.inj ht
    exact ⟨hi, faultedWith_raise s r⟩
  | halts => cases ht
  | _ => exact absurd ht (hs c)  -- every other write leaves `status` alone

theorem notFaulted_fetched {s : State} (w : Word) (hr : s.status = .running) : (s.fetched w).notFaulted :=
  fun _ h => by cases hr.symm.trans h

theorem step_ne_next_of_faulted {s : State} {c : FaultCause} (h : s.status = .faulted c) (u : State) : step s ≠ .next u := by
  intro hstep
  have hrunning : s.status = .running := stoppedEngineHasNoStep s u hstep
  cases h.symm.trans hrunning

/-- Only return and call can meet a missing slot; every other instruction completes whatever `sp` is (O40). -/
theorem exec_next_of_ne {i : Instr} (hret : i ≠ .ret) (hcall : ∀ nnn, i ≠ .call nnn) (s : State) : ∃ t, exec i s = .next t := by
  obtain h | ⟨-, rfl | ⟨nnn, rfl⟩, -⟩ := everyInstructionCompletes i s
  · exact h
  · exact absurd rfl hret
  · exact absurd rfl (hcall nnn)

/-! ### The obligations on faults -/

/-- Settles O45: past the fetch only the instructions of `mayRaise` end Faulted, each with its own cause and under its own condition,
which the fetch does not touch. -/
theorem eachFaultHasItsInstruction : Obligations.EachFaultHasItsInstruction := by
  intro s t c h hc
  obtain ⟨hr, ⟨hp, rfl⟩ | ⟨w, hp, hw, he⟩⟩ := step_cases h
  · cases hc
    exact hp
  rw [show s.nextWord = w from hw.symm]
  have hf := notFaulted_fetched w hr
  generalize decodeWord w = i at he ⊢
  obtain rfl | ⟨nnn, rfl⟩ | ⟨x, rfl | rfl | rfl | rfl | rfl⟩ := (exec_faulted he hf hc).1
  · obtain ⟨rfl, hsp⟩ := (execRet_raises hf).of_faulted he hc
    exact ⟨hp, rfl, hsp⟩
  · obtain ⟨rfl, hsp⟩ := (execCall_raises nnn hf).of_faulted he hc
    exact ⟨hp, ⟨nnn, rfl⟩, hsp⟩
  · obtain ⟨rfl, hsum⟩ := (execAddIndex_raises x hf).of_faulted he hc
    exact ⟨hp, x, rfl, hsum⟩
  · obtain ⟨rfl, hrange⟩ := (execBcd_raises x hf).of_faulted he hc
    exact ⟨hp, x, .inl ⟨rfl, hrange⟩⟩
  · obtain ⟨rfl, hrange⟩ := (execStoreBlock_raises x hf).of_faulted he hc
    exact ⟨hp, x, .inr ⟨.inl rfl, hrange⟩⟩
  · obtain ⟨rfl, hrange⟩ := (execLoadBlock_raises x hf).of_faulted he hc
    exact ⟨hp, x, .inr ⟨.inr (.inl rfl), hrange⟩⟩
  · obtain ⟨rfl, hrange⟩ := (execPrintMem_raises x hf).of_faulted he hc
    exact ⟨hp, x, .inr ⟨.inr (.inr rfl), hrange⟩⟩

/-- Settles O46: a fault of the fetch is a raise in the state before the cycle, and one of the handler a raise in the fetched state; the
cause of the fetch is none of the handler's (O45). -/
theorem faultsArePrecise : Obligations.FaultsArePrecise := by
  intro s t c h hc
  obtain ⟨hr, ⟨-, rfl⟩ | ⟨w, hp, hw, he⟩⟩ := step_cases h
  · obtain ⟨-, hregs, hindex, hpc, hstack, hmem, hout⟩ := faultedWith_raise s (.fetchOutOfBounds s.pc.toNat)
    exact ⟨hregs, hindex, hstack, hmem, step_ne_next_of_faulted hc, .inl ⟨(RunStatus.faulted.inj hc).symm, hpc, hout⟩⟩
  · obtain rfl : w = s.nextWord := hw
    obtain ⟨-, hregs, hindex, hpc, hstack, hmem, hout⟩ := (exec_faulted he (notFaulted_fetched _ hr) hc).2
    have hcause : c ≠ .fetchOutOfBounds := by
      rintro rfl
      have hge : 4095 ≤ s.pc.toNat := eachFaultHasItsInstruction s t _ h hc
      omega
    have hadvance : t.pc.toNat = s.pc.toNat + 2 := hpc ▸ toNat_fetched_pc _ hp
    exact ⟨hregs, hindex, hstack, hmem, step_ne_next_of_faulted hc, .inr ⟨hcause, hadvance, hout⟩⟩

/-- Settles O47: none of the four is return or call, so each completes. -/
theorem memoryFaultsExactlyOutOfRange : Obligations.MemoryFaultsExactlyOutOfRange := by
  intro x s hs
  refine ⟨(execBcd_raises x hs).exists_next (exec_next_of_ne (i := .bcd x) nofun nofun s), ?blocks⟩
  simp only [List.forall_mem_cons, List.not_mem_nil, false_imp_iff, implies_true, and_true]
  exact ⟨(execStoreBlock_raises x hs).exists_next (exec_next_of_ne (i := .storeBlock x) nofun nofun s),
    (execLoadBlock_raises x hs).exists_next (exec_next_of_ne (i := .loadBlock x) nofun nofun s),
    (execPrintMem_raises x hs).exists_next (exec_next_of_ne (i := .printMem x) nofun nofun s)⟩

/-- Settles O37. -/
theorem fetchOutOfBoundsFaults : Obligations.FetchOutOfBoundsFaults :=
  fun s hr hp => ⟨_, step_of_fetch_error hr hp, faultedWith_raise s (.fetchOutOfBounds s.pc.toNat)⟩

/-- Settles O48: with `sp` at most 15 both complete. -/
theorem stackFaultsExactlyAtItsEnds : Obligations.StackFaultsExactlyAtItsEnds :=
  fun _ hs hsp => ⟨fun nnn => (execCall_raises nnn hs).exists_next (exec_next_of_sp_le (.call nnn) hsp),
    (execRet_raises hs).exists_next (exec_next_of_sp_le .ret hsp)⟩

end Sys2Proof.Machine

/-!
PROOFS. Reset and load (R210 to R215): the values of the reset state (O50) and the image in memory (O51).
-/

namespace Sys2Proof.Machine

/-! ### The reset state -/

theorem reg_reset (i : Nibble) : State.reset.reg i = 0#8 := Vector.getElem_replicate _

theorem getElem?_stack_reset {j : Nat} (hj : j < 16) : State.reset.stack[j]? = some 0#16 := by
  rw [Vector.getElem?_eq_getElem hj]
  exact congrArg some (Vector.getElem_replicate hj)

/-- Settles O50: the register file and the stack are replicated zeros, and memory lists no byte. -/
theorem resetLeavesTheseValues : Obligations.ResetLeavesTheseValues :=
  ⟨reg_reset, rfl, rfl, rfl, fun _ => getElem?_stack_reset, fun _ => rfl, rfl, rfl⟩

/-! ### The load -/

section Load

variable {img : List Byte} (s : State)

/-- An image of at most 3584 bytes is written from 512 upward (R214). -/
theorem loadImage_ok (h : img.length ≤ 3584) : loadImage img s = .ok { s with mem := s.mem.writeBytes 512 img } :=
  if_neg (Nat.not_lt.mpr h)

/-- A longer one is rejected (R215). -/
theorem loadImage_error (h : 3584 < img.length) : loadImage img s = .error .oversizedImage := if_pos h

end Load

/-- Settles O51: a byte of memory reads as the byte of the image at its distance from 512, and where there is none as at reset. -/
theorem loadPlacesTheImage : Obligations.LoadPlacesTheImage := by
  refine fun img => ⟨fun h => ⟨_, loadImage_ok _ h, fun k hk => ?image, fun a ha => ?rest, sameButMemory_update _ _⟩,
    loadImage_error _⟩
  case image => simp [Memory.read_writeBytes, hk]
  case rest =>
    rw [Memory.read_writeBytes]
    split
    case isTrue hlo =>
      rw [List.getElem?_eq_none (by omega)]
      rfl
    case isFalse => rfl

end Sys2Proof.Machine
